-- ==== Sys2Proof/Word.lean ====
section
/-! DEFINITION. The word types of the LIN-DTP block. -/

namespace Sys2Proof

/-- An unsigned 8-bit value (rule R10). -/
abbrev Byte := BitVec 8

/-- A 16-bit command word or register (rule R71). -/
abbrev Word := BitVec 16

end Sys2Proof
end

