-- ==== Sys2Proof/Syntax.lean ====
section
/-! DEFINITION. The instructions of the block: one constructor per row of spec/opcode_table.json.  Rows of format
`cmd` are command words (rules R71 to R77); rows of format `pci` are the diagnostic frames a DREQ poll receives,
from the PCI byte on (rules R82, R87). -/

namespace Sys2Proof

/-- The configuration registers with an assigned index (rule R34). -/
inductive Csr where
  | nad | profile | maxRetries | fcBs | fcStmin | respTmo | cfTmo | appTmo | respPolls | ifg
deriving DecidableEq, Repr

/-- The checksum kind of a frame to transmit (rules R74, R104). -/
inductive Cksum where
  | classic | enhanced
deriving DecidableEq, Repr

/-- The receive checksum policy of a poll (rules R74, R106). -/
inductive Policy where
  | classic | enhanced | classicThenEnhanced
deriving DecidableEq, Repr

/-- The opcode table.  `id` is the frame identifier of `CMD[11:6]`, `len` the operand count of `CMD[3:0]`; the
suffix C, E or CE is the `KIND` field.  Of a received frame the constructor names the PCI type, its first
argument is the PCI byte's low nibble and `data` holds the frame's bytes after the PCI byte (DESIGN CHOICE: log entry 8). -/
inductive Instr where
  | pid (id : BitVec 6)
  | cksc (len : BitVec 4)
  | ckse (id : BitVec 6) (len : BitVec 4)
  | fencC (id : BitVec 6) (len : BitVec 4)
  | fencE (id : BitVec 6) (len : BitVec 4)
  | fdecC (id : BitVec 6) (len : BitVec 4)
  | fdecE (id : BitVec 6) (len : BitVec 4)
  | fdecCE (id : BitVec 6) (len : BitVec 4)
  | scanC (id : BitVec 6) (len : BitVec 4)
  | scanE (id : BitVec 6) (len : BitVec 4)
  | scanCE (id : BitVec 6) (len : BitVec 4)
  | hdr (id : BitVec 6)
  | sendC (id : BitVec 6) (len : BitVec 4)
  | sendE (id : BitVec 6) (len : BitVec 4)
  | recvC (id : BitVec 6)
  | recvE (id : BitVec 6)
  | recvCE (id : BitVec 6)
  | dreq (len : BitVec 4)
  | cfg (r : Csr)
  | rst
  | sf (n : BitVec 4) (data : List Byte)
  | ff (hi : BitVec 4) (data : List Byte)
  | cf (seq : BitVec 4) (data : List Byte)
  | fc (sub : BitVec 4) (data : List Byte)
  | pciRsv4 (v : BitVec 4) (data : List Byte)
  | pciRsv5 (v : BitVec 4) (data : List Byte)
  | pciRsv6 (v : BitVec 4) (data : List Byte)
  | pciRsv7 (v : BitVec 4) (data : List Byte)
  | pciRsv8 (v : BitVec 4) (data : List Byte)
  | pciRsv9 (v : BitVec 4) (data : List Byte)
  | pciRsvA (v : BitVec 4) (data : List Byte)
  | pciRsvB (v : BitVec 4) (data : List Byte)
  | pciRsvC (v : BitVec 4) (data : List Byte)
  | pciRsvD (v : BitVec 4) (data : List Byte)
  | pciRsvE (v : BitVec 4) (data : List Byte)
  | pciRsvF (v : BitVec 4) (data : List Byte)
deriving DecidableEq, Repr

end Sys2Proof
end

