-- ==== Sys2Proof/WellFormed.lean ====
section
/-! DEFINITION. Which instruction terms spell a command or a frame: the field ranges the types do not already
enforce (rule R75 for `LEN`, rules R89 and R112 for the length of a received frame). -/

namespace Sys2Proof

/-- A received frame holds at most 8 bytes: the NAD, the PCI byte and at most 6 more (rules R89, R112). -/
def frameDataMax : Nat := 6

/-- The `LEN` range of each opcode (rule R75) and the data length of each frame. -/
def Instr.wellFormed : Instr → Bool
  | .pid _ | .hdr _ | .recvC _ | .recvE _ | .recvCE _ | .cfg _ | .rst => true
  | .cksc len | .ckse _ len | .fencC _ len | .fencE _ len | .sendC _ len | .sendE _ len => len.toNat ≤ 8
  | .fdecC _ len | .fdecE _ len | .fdecCE _ len => 1 ≤ len.toNat && len.toNat ≤ 9
  | .scanC _ len | .scanE _ len | .scanCE _ len => len.toNat ≤ 11
  | .dreq len => 1 ≤ len.toNat && len.toNat ≤ 6
  | .sf _ data | .ff _ data | .cf _ data | .fc _ data
  | .pciRsv4 _ data | .pciRsv5 _ data | .pciRsv6 _ data | .pciRsv7 _ data
  | .pciRsv8 _ data | .pciRsv9 _ data | .pciRsvA _ data | .pciRsvB _ data
  | .pciRsvC _ data | .pciRsvD _ data | .pciRsvE _ data | .pciRsvF _ data => data.length ≤ frameDataMax

end Sys2Proof
end

