-- ==== Sys2Proof/Decode.lean ====
section
/-! DEFINITION. Decoding of command words (rules R71 to R78) and of received diagnostic frames from the PCI byte
on (rules R82, R87), total and rejecting by name, and the encoder written from the same tables (rule R92). -/

namespace Sys2Proof

/-- Why a decoder reads no instruction.  For a command word every reason has the one effect of rule R192. -/
inductive Reject where
  /-- A reserved opcode 0x0, 0xD, 0xE or 0xF (rule R77). -/
  | opcode
  /-- An `ID` outside rule R76. -/
  | frameId
  /-- A `KIND` outside rule R74. -/
  | kind
  /-- A `LEN` outside rule R75. -/
  | len
  /-- A frame with no PCI byte (rule R157). -/
  | noPci
  /-- A frame of more than 8 bytes (rule R89). -/
  | overlong
deriving DecidableEq, Repr

/-- Where an encoding arrives: a word on the command port (rule R70), or the bytes of a polled diagnostic frame
from its PCI byte on (rule R87). -/
inductive Code where
  | command (w : Word)
  | response (bytes : List Byte)
deriving DecidableEq, Repr

/-- `CMD[15:12]` (rule R71). -/
def fieldOp (w : Word) : BitVec 4 := w.extractLsb' 12 4
/-- `CMD[11:6]` (rule R71). -/
def fieldId (w : Word) : BitVec 6 := w.extractLsb' 6 6
/-- `CMD[5:4]` (rule R71). -/
def fieldKind (w : Word) : BitVec 2 := w.extractLsb' 4 2
/-- `CMD[3:0]` (rule R71). -/
def fieldLen (w : Word) : BitVec 4 := w.extractLsb' 0 4

/-- `(OP << 12) | (ID << 6) | (KIND << 4) | LEN` (rule R92). -/
def packWord (op : BitVec 4) (id : BitVec 6) (kind : BitVec 2) (len : BitVec 4) : Word := op ++ id ++ kind ++ len

/-- `hi_nibble(b) = b[7:4]` (rule R11). -/
def hiNibble (b : Byte) : BitVec 4 := b.extractLsb' 4 4
/-- `lo_nibble(b) = b[3:0]` (rule R11). -/
def loNibble (b : Byte) : BitVec 4 := b.extractLsb' 0 4
/-- A PCI byte of type `t` and value `v` (rule R82). -/
def pciByte (t v : BitVec 4) : Byte := t ++ v

/-- The CSR's index (rule R34). -/
def Csr.index : Csr → BitVec 6
  | .nad => 0x00 | .profile => 0x01 | .maxRetries => 0x02 | .fcBs => 0x03 | .fcStmin => 0x04
  | .respTmo => 0x05 | .cfTmo => 0x06 | .appTmo => 0x07 | .respPolls => 0x08 | .ifg => 0x09

/-- The CSR an index names; 0x0A..0x3F are reserved (rules R34, R38). -/
def csrOfIndex (i : BitVec 6) : Option Csr :=
  match i.toNat with
  | 0x00 => some .nad
  | 0x01 => some .profile
  | 0x02 => some .maxRetries
  | 0x03 => some .fcBs
  | 0x04 => some .fcStmin
  | 0x05 => some .respTmo
  | 0x06 => some .cfTmo
  | 0x07 => some .appTmo
  | 0x08 => some .respPolls
  | 0x09 => some .ifg
  | _ => none

/-- One field check: go on when it holds, else reject by name. -/
def demand (c : Bool) (r : Reject) (k : Except Reject Instr) : Except Reject Instr :=
  if c then k else .error r

/-- `ID` must be 0 (rule R76). -/
def noId (id : BitVec 6) (k : Except Reject Instr) : Except Reject Instr := demand (id == 0) .frameId k
/-- `KIND` must be 00 (rule R74). -/
def noKind (kind : BitVec 2) (k : Except Reject Instr) : Except Reject Instr := demand (kind == 0) .kind k
/-- `LEN` must lie in `lo..hi` (rule R75). -/
def lenIn (lo hi : Nat) (len : BitVec 4) (k : Except Reject Instr) : Except Reject Instr :=
  demand (lo ≤ len.toNat && len.toNat ≤ hi) .len k

/-- The `KIND` of a frame to transmit: 00 Classic, 01 Enhanced, 10 and 11 refused (rule R74). -/
def txKind (kind : BitVec 2) (c e : Except Reject Instr) : Except Reject Instr :=
  match kind.toNat with
  | 0 => c
  | 1 => e
  | _ => .error .kind

/-- The `KIND` of a receive policy: 00 Classic, 01 Enhanced, 10 Classic-then-Enhanced, 11 refused (rule R74). -/
def rxKind (kind : BitVec 2) (c e ce : Except Reject Instr) : Except Reject Instr :=
  match kind.toNat with
  | 0 => c
  | 1 => e
  | 2 => ce
  | _ => .error .kind

/-- The command decoder: opcode, then `ID`, then `KIND`, then `LEN` (rules R73 to R77, R190, R195). -/
def decodeCommand (w : Word) : Except Reject Instr :=
  let id := fieldId w
  let kind := fieldKind w
  let len := fieldLen w
  match (fieldOp w).toNat with
  | 0x1 => noKind kind (lenIn 0 0 len (.ok (.pid id)))
  | 0x2 => noId id (noKind kind (lenIn 0 8 len (.ok (.cksc len))))
  | 0x3 => noKind kind (lenIn 0 8 len (.ok (.ckse id len)))
  | 0x4 => txKind kind (lenIn 0 8 len (.ok (.fencC id len))) (lenIn 0 8 len (.ok (.fencE id len)))
  | 0x5 => rxKind kind (lenIn 1 9 len (.ok (.fdecC id len))) (lenIn 1 9 len (.ok (.fdecE id len)))
      (lenIn 1 9 len (.ok (.fdecCE id len)))
  | 0x6 => rxKind kind (lenIn 0 11 len (.ok (.scanC id len))) (lenIn 0 11 len (.ok (.scanE id len)))
      (lenIn 0 11 len (.ok (.scanCE id len)))
  | 0x7 => noKind kind (lenIn 0 0 len (.ok (.hdr id)))
  | 0x8 => txKind kind (lenIn 0 8 len (.ok (.sendC id len))) (lenIn 0 8 len (.ok (.sendE id len)))
  | 0x9 => rxKind kind (lenIn 0 0 len (.ok (.recvC id))) (lenIn 0 0 len (.ok (.recvE id)))
      (lenIn 0 0 len (.ok (.recvCE id)))
  | 0xA => noId id (noKind kind (lenIn 1 6 len (.ok (.dreq len))))
  | 0xB =>
    match csrOfIndex id with
    | none => .error .frameId
    | some r => noKind kind (lenIn 0 0 len (.ok (.cfg r)))
  | 0xC => noId id (noKind kind (lenIn 0 0 len (.ok .rst)))
  | _ => .error .opcode

/-- The frame whose PCI type is `t`, value `v` and further bytes `data` (rules R82, R87). -/
def frameOfType (t v : BitVec 4) (data : List Byte) : Instr :=
  match t.toNat with
  | 0x0 => .sf v data
  | 0x1 => .ff v data
  | 0x2 => .cf v data
  | 0x3 => .fc v data
  | 0x4 => .pciRsv4 v data
  | 0x5 => .pciRsv5 v data
  | 0x6 => .pciRsv6 v data
  | 0x7 => .pciRsv7 v data
  | 0x8 => .pciRsv8 v data
  | 0x9 => .pciRsv9 v data
  | 0xA => .pciRsvA v data
  | 0xB => .pciRsvB v data
  | 0xC => .pciRsvC v data
  | 0xD => .pciRsvD v data
  | 0xE => .pciRsvE v data
  | _ => .pciRsvF v data

/-- The PCI decoder of a received diagnostic frame, from its PCI byte on (rule R87). -/
def decodeResponse : List Byte → Except Reject Instr
  | [] => .error .noPci
  | b :: data =>
    if data.length ≤ frameDataMax then .ok (frameOfType (hiNibble b) (loNibble b) data) else .error .overlong

/-- Decoding of either encoding, total. -/
def decode : Code → Except Reject Instr
  | .command w => decodeCommand w
  | .response bytes => decodeResponse bytes

/-- The encoder (rules R73 to R76 and R92 for commands, R82 for frames). -/
def encode : Instr → Code
  | .pid id => .command (packWord 0x1 id 0 0)
  | .cksc len => .command (packWord 0x2 0 0 len)
  | .ckse id len => .command (packWord 0x3 id 0 len)
  | .fencC id len => .command (packWord 0x4 id 0 len)
  | .fencE id len => .command (packWord 0x4 id 1 len)
  | .fdecC id len => .command (packWord 0x5 id 0 len)
  | .fdecE id len => .command (packWord 0x5 id 1 len)
  | .fdecCE id len => .command (packWord 0x5 id 2 len)
  | .scanC id len => .command (packWord 0x6 id 0 len)
  | .scanE id len => .command (packWord 0x6 id 1 len)
  | .scanCE id len => .command (packWord 0x6 id 2 len)
  | .hdr id => .command (packWord 0x7 id 0 0)
  | .sendC id len => .command (packWord 0x8 id 0 len)
  | .sendE id len => .command (packWord 0x8 id 1 len)
  | .recvC id => .command (packWord 0x9 id 0 0)
  | .recvE id => .command (packWord 0x9 id 1 0)
  | .recvCE id => .command (packWord 0x9 id 2 0)
  | .dreq len => .command (packWord 0xA 0 0 len)
  | .cfg r => .command (packWord 0xB r.index 0 0)
  | .rst => .command (packWord 0xC 0 0 0)
  | .sf n data => .response (pciByte 0x0 n :: data)
  | .ff hi data => .response (pciByte 0x1 hi :: data)
  | .cf seq data => .response (pciByte 0x2 seq :: data)
  | .fc sub data => .response (pciByte 0x3 sub :: data)
  | .pciRsv4 v data => .response (pciByte 0x4 v :: data)
  | .pciRsv5 v data => .response (pciByte 0x5 v :: data)
  | .pciRsv6 v data => .response (pciByte 0x6 v :: data)
  | .pciRsv7 v data => .response (pciByte 0x7 v :: data)
  | .pciRsv8 v data => .response (pciByte 0x8 v :: data)
  | .pciRsv9 v data => .response (pciByte 0x9 v :: data)
  | .pciRsvA v data => .response (pciByte 0xA v :: data)
  | .pciRsvB v data => .response (pciByte 0xB v :: data)
  | .pciRsvC v data => .response (pciByte 0xC v :: data)
  | .pciRsvD v data => .response (pciByte 0xD v :: data)
  | .pciRsvE v data => .response (pciByte 0xE v :: data)
  | .pciRsvF v data => .response (pciByte 0xF v :: data)

/-- The mnemonic of the instruction's row in spec/opcode_table.json. -/
def Instr.mnemonic : Instr → String
  | .pid _ => "PID"
  | .cksc _ => "CKSC"
  | .ckse _ _ => "CKSE"
  | .fencC _ _ => "FENC.C"
  | .fencE _ _ => "FENC.E"
  | .fdecC _ _ => "FDEC.C"
  | .fdecE _ _ => "FDEC.E"
  | .fdecCE _ _ => "FDEC.CE"
  | .scanC _ _ => "SCAN.C"
  | .scanE _ _ => "SCAN.E"
  | .scanCE _ _ => "SCAN.CE"
  | .hdr _ => "HDR"
  | .sendC _ _ => "SEND.C"
  | .sendE _ _ => "SEND.E"
  | .recvC _ => "RECV.C"
  | .recvE _ => "RECV.E"
  | .recvCE _ => "RECV.CE"
  | .dreq _ => "DREQ"
  | .cfg _ => "CFG"
  | .rst => "RST"
  | .sf _ _ => "SF"
  | .ff _ _ => "FF"
  | .cf _ _ => "CF"
  | .fc _ _ => "FC"
  | .pciRsv4 _ _ => "PCI_RSV4"
  | .pciRsv5 _ _ => "PCI_RSV5"
  | .pciRsv6 _ _ => "PCI_RSV6"
  | .pciRsv7 _ _ => "PCI_RSV7"
  | .pciRsv8 _ _ => "PCI_RSV8"
  | .pciRsv9 _ _ => "PCI_RSV9"
  | .pciRsvA _ _ => "PCI_RSVA"
  | .pciRsvB _ _ => "PCI_RSVB"
  | .pciRsvC _ _ => "PCI_RSVC"
  | .pciRsvD _ _ => "PCI_RSVD"
  | .pciRsvE _ _ => "PCI_RSVE"
  | .pciRsvF _ _ => "PCI_RSVF"

/-- A row of format `cmd` of spec/opcode_table.json: mask, match, and the field constraints the mask leaves. -/
structure CommandRow where
  mnemonic : String
  mask : Word
  bits : Word
  idMax : Nat
  lenMin : Nat
  lenMax : Nat
deriving DecidableEq, Repr

/-- The `cmd` rows of spec/opcode_table.json, in the table's order. -/
def commandRows : List CommandRow :=
  [
    ⟨"PID", 0xF03F, 0x1000, 63, 0, 0⟩,
    ⟨"CKSC", 0xFFF0, 0x2000, 63, 0, 8⟩,
    ⟨"CKSE", 0xF030, 0x3000, 63, 0, 8⟩,
    ⟨"FENC.C", 0xF030, 0x4000, 63, 0, 8⟩,
    ⟨"FENC.E", 0xF030, 0x4010, 63, 0, 8⟩,
    ⟨"FDEC.C", 0xF030, 0x5000, 63, 1, 9⟩,
    ⟨"FDEC.E", 0xF030, 0x5010, 63, 1, 9⟩,
    ⟨"FDEC.CE", 0xF030, 0x5020, 63, 1, 9⟩,
    ⟨"SCAN.C", 0xF030, 0x6000, 63, 0, 11⟩,
    ⟨"SCAN.E", 0xF030, 0x6010, 63, 0, 11⟩,
    ⟨"SCAN.CE", 0xF030, 0x6020, 63, 0, 11⟩,
    ⟨"HDR", 0xF03F, 0x7000, 63, 0, 0⟩,
    ⟨"SEND.C", 0xF030, 0x8000, 63, 0, 8⟩,
    ⟨"SEND.E", 0xF030, 0x8010, 63, 0, 8⟩,
    ⟨"RECV.C", 0xF03F, 0x9000, 63, 0, 0⟩,
    ⟨"RECV.E", 0xF03F, 0x9010, 63, 0, 0⟩,
    ⟨"RECV.CE", 0xF03F, 0x9020, 63, 0, 0⟩,
    ⟨"DREQ", 0xFFF0, 0xA000, 63, 1, 6⟩,
    ⟨"CFG", 0xF03F, 0xB000, 9, 0, 0⟩,
    ⟨"RST", 0xFFFF, 0xC000, 63, 0, 0⟩]

/-- `(word & mask) == match` (rule R78). -/
def CommandRow.selects (r : CommandRow) (w : Word) : Bool := w &&& r.mask == r.bits

/-- The row matches and its field constraints hold (rule R78). -/
def CommandRow.admits (r : CommandRow) (w : Word) : Bool :=
  r.selects w && ((fieldId w).toNat ≤ r.idMax && (r.lenMin ≤ (fieldLen w).toNat && (fieldLen w).toNat ≤ r.lenMax))

/-- The frame bytes of a table row of 8 bits: the PCI byte and six operand bytes of zeros. -/
def tableFrame (w : Nat) : List Byte := BitVec.ofNat 8 w :: List.replicate frameDataMax 0

/-- The instruction the decoder reads from the table's bits: a 16-bit command word, or an 8-bit PCI byte whose
frame's further bytes are zeros. -/
def decodeTableWord (nbits w : Nat) : Option Instr :=
  match nbits with
  | 8 => (decode (.response (tableFrame w))).toOption
  | 16 => (decode (.command (BitVec.ofNat 16 w))).toOption
  | _ => none

end Sys2Proof
end

