-- ==== Sys2Proof/Config.lean ====
section
/-! DEFINITION. What an implementation fixes and the spec leaves OPEN (rule R9, entries I4 and I5) with the
lengths of the break's parts, and the free values an outside agent supplies (rule R133, entries I12 and I13).  None
of the opaque constants has a body: no statement can rest on a value of one. -/

namespace Sys2Proof.Config

/-- `NAD_DEFAULT` (rule R9, decision D50), OPEN. -/
opaque nadDefault : Byte
/-- `PROFILE_DEFAULT` (rule R9, decision D27), OPEN. -/
opaque profileDefault : BitVec 1
/-- How far `MAX_RETRIES_DEFAULT` lies above 20: the spec bounds it by 20..30 (rule R9, decision D51). -/
opaque maxRetriesAbove20 : Fin 11
/-- `MAX_RETRIES_DEFAULT`, OPEN in 20..30 (rule R9). -/
def maxRetriesDefault : BitVec 5 := BitVec.ofNat 5 (20 + maxRetriesAbove20.val)
/-- `FC_BS_DEFAULT` (rule R9, decision D52), OPEN. -/
opaque fcBsDefault : Byte
/-- `FC_STMIN_DEFAULT` (rule R9, decision D52), OPEN. -/
opaque fcStminDefault : Byte
/-- `RESP_TMO_DEFAULT` in `TIME_UNIT` (rule R9, decision D53), OPEN. -/
opaque respTmoDefault : Word
/-- `CF_TMO_DEFAULT` in `TIME_UNIT` (rule R9, decision D53), OPEN. -/
opaque cfTmoDefault : Word
/-- `APP_TMO_DEFAULT` in `TIME_UNIT` (rule R9, decision D53), OPEN. -/
opaque appTmoDefault : Word
/-- `IFG_DEFAULT` in `TIME_UNIT` (rule R9, decision D54), OPEN. -/
opaque ifgDefault : Word
/-- `TIME_UNIT`, the length of one unit of every timeout and gap (rule R9, decision D55), OPEN.  No rule reads it. -/
opaque timeUnit : Nat
/-- How many bit-times the break exceeds its lower bound by (rule R9, decision D56). -/
opaque breakBitsAbove13 : Nat
/-- `BREAK_BITS`, at least 13 bit-times, a property of the transceiver (rules R9, R79).  No rule reads it. -/
def breakBits : Nat := 13 + breakBitsAbove13
/-- `DELIM_BITS`, the 1 recessive bit-time of the break delimiter, fixed (rules R9, R79).  No rule reads it. -/
def delimBits : Nat := 1

/-- The free answer of the `n`-th draw to an `X.rx` (rule R133, entry I12): any byte sequence. -/
opaque rxAnswer : Nat → List Byte
/-- The free value of the `n`-th draw that `X.bsi` returns (rule R130, entry I13). -/
opaque bsiReturn : Nat → Byte

end Sys2Proof.Config
end

