-- ==== Sys2Proof/Machine/State.lean ====
section
/-! DEFINITION. Everything the spec gives the block (10_state.md), the port trace (rule R45), and the pending
inputs of the host and the transceiver.  Plain data throughout. -/

namespace Sys2Proof.Machine

/-- An indexed byte space (rule R50): pairs of index and byte, indices strictly rising; an unlisted byte holds
no value (rules R23, R32, R33). -/
abbrev Memory := List Host.Cell

/-- Failure codes (rule R210); codes 8..15 do not exist (rule R28). -/
inductive FKind where
  | none | timeout | noPid | short | checksum | protocol | retryExhausted | refused
deriving DecidableEq, Repr

/-- Which checksum kind matched (rule R27); code 3 does not exist (rule R28). -/
inductive RClass where
  | none | classic | enhanced
deriving DecidableEq, Repr

/-- The transport state (rule R40); codes 6 and 7 do not exist (rule R28). -/
inductive TState where
  | idle | awaitingResponse | singleFrameDone | reassembling | done | failed
deriving DecidableEq, Repr

/-- The fields of `STATUS` (rule R24); the 16-bit word the host reads is `Status.word`. -/
structure Status where
  busy : Bool
  done : Bool
  fail : Bool
  fkind : FKind
  ckok : Bool
  rclass : RClass
  ovr : Bool
  tstate : TState
deriving DecidableEq, Repr

/-- The configuration registers (rule R34). -/
structure Csrs where
  nad : Byte
  profile : BitVec 1
  maxRetries : BitVec 5
  fcBs : Byte
  fcStmin : Byte
  respTmo : Word
  cfTmo : Word
  appTmo : Word
  respPolls : Byte
  ifg : Word
deriving DecidableEq, Repr

/-- The events of the port trace (rule R45).  `bsi` also records the value the transceiver returned, which no
rule reads (rule R130, entry I13), DEDUCED: log entry 7. -/
inductive Event where
  | flush
  | bsi (id : BitVec 6) (returned : Byte)
  | tx (b : Byte)
  | rx (maxLen : Nat) (tmo : Word) (answer : List Byte)
  | wait (t : Word)
deriving DecidableEq, Repr

/-- What the host does between steps (rules R66, R229), DESIGN CHOICE: log entry 2. -/
inductive HostAction where
  /-- Write `DBUF[i]` (rule R23). -/
  | write (i : BitVec 4) (b : Byte)
  /-- Write a word to the command port (rule R70). -/
  | issue (w : Word)
  /-- Do nothing while the block takes its next step. -/
  | run
deriving DecidableEq, Repr

/-- The transceiver's pending answers: to `X.rx` and to `X.bsi`, each list oldest first.  Where a list is empty
the answer is a free value of Config, indexed by `draws`, which counts the values drawn.  DESIGN CHOICE: log entry 3. -/
structure Xcvr where
  rx : List (List Byte)
  bsi : List Byte
  draws : Nat
deriving DecidableEq, Repr

/-- The whole machine. -/
@[ext]
structure State where
  /-- `CUR` (rule R22). -/
  cur : Word
  /-- `DBUF` (rule R23). -/
  dbuf : Memory
  /-- `STATUS`, `TSTATE` among its fields (rules R24, R40). -/
  status : Status
  /-- `RBYTE` (rule R30). -/
  rbyte : Byte
  /-- `RPID` (rule R31). -/
  rpid : Byte
  /-- `RLEN` (rule R32). -/
  rlen : BitVec 13
  /-- `RBUF` (rule R33). -/
  rbuf : Memory
  /-- The CSRs (rule R34). -/
  csr : Csrs
  /-- `TLEN` (rule R39). -/
  tlen : BitVec 12
  /-- `COLL` (rule R39). -/
  coll : List Byte
  /-- `RETRY` (rule R39). -/
  retry : BitVec 5
  /-- `ATT` (rule R41). -/
  att : BitVec 8
  /-- The port trace, oldest event first (rule R45). -/
  trace : List Event
  /-- Pending host actions, next first (rule R66). -/
  host : List HostAction
  /-- Pending transceiver answers (rule R133). -/
  xcvr : Xcvr
deriving DecidableEq, Repr

/-- Why the model stops. -/
inductive Fault where
  /-- `UNDEF_OPERAND`: a command reads a `DBUF` byte with no value (rules R23, R190, entry I3).  Raised by the
  dispatcher, and by a body run in a state no dispatch leads to.  Safe: the spec gives the case no effect. -/
  | undefOperand
deriving DecidableEq, Repr

/-- Why an instruction has no meaning. -/
inductive Refusal where
  /-- Raised only by an arm of `exec` whose instruction is not modelled; no arm is.  Safe. -/
  | notModelled (mnemonic : String)
deriving DecidableEq, Repr

/-- `STATUS` after reset: all fields 0 (rules R24, R240). -/
def Status.reset : Status :=
  { busy := false, done := false, fail := false, fkind := .none, ckok := false, rclass := .none, ovr := false,
    tstate := .idle }

/-- The CSRs after reset (rules R34, R240). -/
def Csrs.reset : Csrs :=
  { nad := Config.nadDefault, profile := Config.profileDefault, maxRetries := Config.maxRetriesDefault,
    fcBs := Config.fcBsDefault, fcStmin := Config.fcStminDefault, respTmo := Config.respTmoDefault,
    cfTmo := Config.cfTmoDefault, appTmo := Config.appTmoDefault, respPolls := 1, ifg := Config.ifgDefault }

/-- The machine after power-on reset (rules R46, R240, R241). -/
def State.reset : State :=
  { cur := 0x0000, dbuf := [], status := Status.reset, rbyte := 0x00, rpid := 0x00, rlen := 0, rbuf := [],
    csr := Csrs.reset, tlen := 0, coll := [], retry := 0, att := 0, trace := [], host := [],
    xcvr := { rx := [], bsi := [], draws := 0 } }

end Sys2Proof.Machine
end

