-- ==== Sys2Proof/Machine/Flags.lean ====
section
/-! DEFINITION. Every status computation the spec gives: the start actions (rule R16), the completion primitives
(rule R15), the checksum flags (rules R26, R27), `OVR` (rule R29), and `STATUS` as the host reads it (rule R24). -/

namespace Sys2Proof.Machine

/-- The code of `FKIND` (rule R210). -/
def FKind.code : FKind → BitVec 4
  | .none => 0 | .timeout => 1 | .noPid => 2 | .short => 3 | .checksum => 4 | .protocol => 5
  | .retryExhausted => 6 | .refused => 7

/-- The code of `RCLASS` (rule R27). -/
def RClass.code : RClass → BitVec 2
  | .none => 0 | .classic => 1 | .enhanced => 2

/-- The code of `TSTATE` (rule R40). -/
def TState.code : TState → BitVec 3
  | .idle => 0 | .awaitingResponse => 1 | .singleFrameDone => 2 | .reassembling => 3 | .done => 4 | .failed => 5

/-- `STATUS` as one word, bits 15:14 reading 0 (rules R24, R28). -/
def Status.word (st : Status) : Word :=
  0#2 ++ st.tstate.code ++ BitVec.ofBool st.ovr ++ st.rclass.code ++ BitVec.ofBool st.ckok ++ st.fkind.code
    ++ BitVec.ofBool st.fail ++ BitVec.ofBool st.done ++ BitVec.ofBool st.busy

/-- The start actions of a command: the word is latched and the command's status fields are cleared (rules R16,
R22, R190). -/
def startCommand (w : Word) (s : State) : State :=
  { s with
    cur := w
    status := { s.status with
      busy := true, done := false, fail := false, fkind := .none, ckok := false, rclass := .none } }

/-- `finish_ok()` (rule R15). -/
def finishOk (s : State) : State :=
  { s with status := { s.status with done := true, fail := false, fkind := .none, busy := false } }

/-- `finish_fail(k)` (rule R15). -/
def finishFail (k : FKind) (s : State) : State :=
  { s with status := { s.status with done := false, fail := true, fkind := k, busy := false } }

/-- `refuse()` (rules R15, R192). -/
def refuse (s : State) : State := finishFail .refused s

/-- `if k == NONE then finish_ok() else finish_fail(k)` (rules R113, R136). -/
def finishWith (k : FKind) (s : State) : State :=
  match k with
  | .none => finishOk s
  | k => finishFail k s

/-- `CKOK <- ok; RCLASS <- cls` (rules R26, R27). -/
def setCheck (ok : Bool) (cls : RClass) (s : State) : State :=
  { s with status := { s.status with ckok := ok, rclass := cls } }

/-- `TSTATE <- t` (rule R40). -/
def setTState (t : TState) (s : State) : State := { s with status := { s.status with tstate := t } }

/-- `OVR <- 1` (rule R29). -/
def setOverrun (s : State) : State := { s with status := { s.status with ovr := true } }

/-- The states of an exchange in which DREQ polls (rules R155, R164). -/
def polling (s : State) : Bool :=
  match s.status.tstate with
  | .awaitingResponse | .reassembling => true
  | .idle | .singleFrameDone | .done | .failed => false

end Sys2Proof.Machine
end

