-- ==== Sys2Proof/Machine/Ops.lean ====
section
/-! DEFINITION. The shared operations: the indexed spaces (20_memory.md), the codec functions (40_codec.md), the
transceiver primitives (rules R14, R224), the bus procedures (41_bus.md) and `reset()` (rule R240).  The block
takes no exception and returns from none (rules R217, R219): a failure is a completed command, `finishFail`. -/

namespace Sys2Proof.Machine

/-! ### The indexed byte spaces -/

/-- The byte at an index; none where the index holds no value (rules R23, R32). -/
def Memory.read (m : Memory) (a : Nat) : Option Byte :=
  match m with
  | [] => none
  | (k, b) :: rest => if k = a then some b else Memory.read rest a

/-- Write one byte, keeping the indices rising. -/
def Memory.write (m : Memory) (a : Nat) (b : Byte) : Memory :=
  match m with
  | [] => [(a, b)]
  | (k, c) :: rest =>
    if a < k then (a, b) :: (k, c) :: rest
    else if a = k then (a, b) :: rest
    else (k, c) :: Memory.write rest a b

/-- Every index listed is at least `lo`, and the indices strictly rise. -/
def Memory.risingFrom (lo : Nat) : Memory → Bool
  | [] => true
  | (k, _) :: rest => lo ≤ k && Memory.risingFrom (k + 1) rest

/-- The canonical form: indices strictly rising.  An unlisted byte holds no value, so no entry can equal it. -/
def Memory.wf (m : Memory) : Bool := Memory.risingFrom 0 m

/-- The bytes `l` at the indices from `a` on, and no value elsewhere. -/
def Memory.ofBytesAt (a : Nat) : List Byte → Memory
  | [] => []
  | b :: rest => (a, b) :: Memory.ofBytesAt (a + 1) rest

/-- `MemRead(a, n)`: the `n` bytes from index `a` on, if all hold a value (rules R13, R52). -/
def Memory.readSeq (m : Memory) (a : Nat) : Nat → Option (List Byte)
  | 0 => some []
  | n + 1 =>
    match m.read a, Memory.readSeq m (a + 1) n with
    | some b, some rest => some (b :: rest)
    | _, _ => none

/-- `RBUF[0..n) <- data; RLEN <- n`; bytes at or beyond `RLEN` hold no value (rules R32, R33, R52). -/
def setResult (data : List Byte) (s : State) : State :=
  { s with rbuf := Memory.ofBytesAt 0 data, rlen := BitVec.ofNat 13 data.length }

/-! ### The codec functions -/

/-- `computePid(id)` (rule R100). -/
def computePid (id : BitVec 6) : Byte :=
  let p0 := id.getLsbD 0 ^^ id.getLsbD 1 ^^ id.getLsbD 2 ^^ id.getLsbD 4
  let p1 := !(id.getLsbD 1 ^^ id.getLsbD 3 ^^ id.getLsbD 4 ^^ id.getLsbD 5)
  BitVec.ofBool p1 ++ BitVec.ofBool p0 ++ id

/-- One addition of the checksum with its end-around carry (rule R102). -/
def sumStep (s : Nat) (b : Byte) : Nat := if s + b.toNat > 255 then s + b.toNat - 255 else s + b.toNat

/-- `checksum(data, seed)` (rule R102). -/
def checksum (data : List Byte) (seed : Byte) : Byte := ~~~ (BitVec.ofNat 8 (data.foldl sumStep seed.toNat))

/-- The checksum of a frame of kind `k` and identifier `pid` (rule R104). -/
def frameChecksum (k : Cksum) (pid : Byte) (data : List Byte) : Byte :=
  match k with
  | .classic => checksum data 0
  | .enhanced => checksum data pid

/-- `validate(data, cs, pid, policy)`: the kind that matched, `RClass.none` when none did (rule R106). -/
def validate (data : List Byte) (cs pid : Byte) (policy : Policy) : RClass :=
  match policy with
  | .classic => if cs = checksum data 0 then .classic else .none
  | .enhanced => if cs = checksum data pid then .enhanced else .none
  | .classicThenEnhanced =>
    if cs = checksum data 0 then .classic else if cs = checksum data pid then .enhanced else .none

/-- `ok` of a validation: some kind matched (rule R106). -/
def RClass.matched : RClass → Bool
  | .none => false
  | .classic | .enhanced => true

/-- The failure code of a validation (rules R111, R112). -/
def RClass.outcome : RClass → FKind
  | .none => .checksum
  | .classic | .enhanced => .none

/-- What a capture parse returns (rule R112). -/
structure Parsed where
  kind : FKind
  data : List Byte
  cls : RClass
deriving DecidableEq, Repr

/-- The bytes after the first byte equal to `x` (rules R12, R112). -/
def afterFirst (x : Byte) : List Byte → Option (List Byte)
  | [] => none
  | b :: rest => if b = x then some rest else afterFirst x rest

/-- `parse(pid, s, policy)` (rule R112). -/
def parse (pid : Byte) (s : List Byte) (policy : Policy) : Parsed :=
  if s.length = 0 then { kind := .timeout, data := [], cls := .none }
  else
    match afterFirst pid s with
    | none => { kind := .noPid, data := [], cls := .none }
    | some rest =>
      if rest.length < 2 then { kind := .short, data := [], cls := .none }
      else if rest.dropLast.length > 8 then { kind := .protocol, data := [], cls := .none }
      else
        let cls := validate rest.dropLast (rest.getLastD 0) pid policy
        { kind := cls.outcome, data := rest.dropLast, cls := cls }

/-! ### The transceiver primitives -/

/-- Append events to the port trace (rule R45). -/
def emit (es : List Event) (s : State) : State := { s with trace := s.trace ++ es }

/-- `X.flush()` (rules R14, R224). -/
def xFlush (s : State) : State := emit [.flush] s

/-- The value the next `X.bsi` returns: listed, or a free value (entry I13). -/
def bsiReturned (s : State) : Byte :=
  match s.xcvr.bsi with
  | b :: _ => b
  | [] => Config.bsiReturn s.xcvr.draws

/-- `X.bsi(id)` (rules R14, R224): recorded with the value returned, which the block ignores (rule R226). -/
def xBsi (id : BitVec 6) (s : State) : State :=
  let t := emit [.bsi id (bsiReturned s)] s
  match s.xcvr.bsi with
  | _ :: rest => { t with xcvr := { s.xcvr with bsi := rest } }
  | [] => { t with xcvr := { s.xcvr with draws := s.xcvr.draws + 1 } }

/-- `X.tx(b)` for each byte in order (rules R14, R224). -/
def xTx (bytes : List Byte) (s : State) : State := emit (bytes.map .tx) s

/-- `wait(t)` (rules R14, R68). -/
def xWait (t : Word) (s : State) : State := emit [.wait t] s

/-- The answer to the next `X.rx`: listed, or a free value, and never more than `maxLen` bytes (rules R133,
R225). -/
def rxAnswer (maxLen : Nat) (s : State) : List Byte :=
  match s.xcvr.rx with
  | a :: _ => a.take maxLen
  | [] => (Config.rxAnswer s.xcvr.draws).take maxLen

/-- `X.rx(maxLen, tmo)`: the answer is `rxAnswer maxLen s` (rules R14, R133). -/
def xRx (maxLen : Nat) (tmo : Word) (s : State) : State :=
  let t := emit [.rx maxLen tmo (rxAnswer maxLen s)] s
  match s.xcvr.rx with
  | _ :: rest => { t with xcvr := { s.xcvr with rx := rest } }
  | [] => { t with xcvr := { s.xcvr with draws := s.xcvr.draws + 1 } }

/-! ### The bus procedures -/

/-- `RECV_MAX`, the most bytes one poll reads (rule R9). -/
def recvMax : Nat := 11

/-- `header(id)` (rule R130). -/
def header (id : BitVec 6) (s : State) : State :=
  { xBsi id (xFlush s) with rpid := computePid id }

/-- `send(id, data, kind)` (rule R132). -/
def send (id : BitVec 6) (data : List Byte) (kind : Cksum) (s : State) : State :=
  xWait s.csr.ifg (xTx (data ++ [frameChecksum kind (computePid id) data]) (header id s))

/-- What `recv(id, tmo, policy)` returns (rule R135). -/
def recvParsed (id : BitVec 6) (policy : Policy) (s : State) : Parsed :=
  parse (computePid id) (rxAnswer recvMax (header id s)) policy

/-- The state after `recv(id, tmo, policy)`, before its caller uses the result (rule R135). -/
def recvState (id : BitVec 6) (tmo : Word) (s : State) : State := xRx recvMax tmo (header id s)

/-! ### Reset -/

/-- `reset()`: every piece of block state at its reset value; the port trace is not erased and the transceiver
and the host are not touched (rules R240 to R242). -/
def resetBlock (s : State) : State := { State.reset with trace := s.trace, host := s.host, xcvr := s.xcvr }

end Sys2Proof.Machine
end

