-- ==== Sys2Proof/Machine/Operands.lean ====
section
/-! DEFINITION. The operand forms: the `DBUF` bytes each opcode reads (rules R51, R72), the CSR file with its legal
values (rules R34, R38, R193), and the ports the host reads (rules R7, R65, R229). -/

namespace Sys2Proof.Machine

/-- How many `DBUF` bytes, from index 0 on, an instruction reads (rule R72).  A received frame reads none. -/
def operandCount : Instr → Nat
  | .pid _ | .hdr _ | .recvC _ | .recvE _ | .recvCE _ | .rst => 0
  | .cksc len | .ckse _ len | .fencC _ len | .fencE _ len | .fdecC _ len | .fdecE _ len | .fdecCE _ len
  | .scanC _ len | .scanE _ len | .scanCE _ len | .sendC _ len | .sendE _ len | .dreq len => len.toNat
  | .cfg _ => 2
  | .sf _ _ | .ff _ _ | .cf _ _ | .fc _ _ | .pciRsv4 _ _ | .pciRsv5 _ _ | .pciRsv6 _ _ | .pciRsv7 _ _
  | .pciRsv8 _ _ | .pciRsv9 _ _ | .pciRsvA _ _ | .pciRsvB _ _ | .pciRsvC _ _ | .pciRsvD _ _ | .pciRsvE _ _
  | .pciRsvF _ _ => 0

/-- `DBUF[0..n)`, if every byte of it holds a value (rules R23, R51). -/
def operands (n : Nat) (s : State) : Option (List Byte) := s.dbuf.readSeq 0 n

/-- Run a body on `DBUF[0..n)`; a byte with no value is the model fault `UNDEF_OPERAND` (rule R23, entry I3). -/
def withOperands (n : Nat) (s : State) (body : List Byte → State) : Host.Outcome State Fault Refusal :=
  match operands n s with
  | some data => .next (body data)
  | none => .fault .undefOperand

/-- The value of a CFG, low byte first (rules R59, R193). -/
def cfgValue (data : List Byte) : Word := data.getD 1 0 ++ data.getD 0 0

/-- The legal written values of a CSR (rules R34, R193). -/
def csrLegal (r : Csr) (v : Word) : Bool :=
  match r with
  | .nad | .fcBs | .fcStmin => v.toNat ≤ 0xFF
  | .profile => v.toNat ≤ 1
  | .maxRetries => 20 ≤ v.toNat && v.toNat ≤ 30
  | .respPolls => 1 ≤ v.toNat && v.toNat ≤ 0xFF
  | .respTmo | .cfTmo | .appTmo | .ifg => true

/-- `r <- v` for a legal `v` (rule R193). -/
def csrWrite (r : Csr) (v : Word) (c : Csrs) : Csrs :=
  match r with
  | .nad => { c with nad := v.setWidth 8 }
  | .profile => { c with profile := v.setWidth 1 }
  | .maxRetries => { c with maxRetries := v.setWidth 5 }
  | .fcBs => { c with fcBs := v.setWidth 8 }
  | .fcStmin => { c with fcStmin := v.setWidth 8 }
  | .respTmo => { c with respTmo := v }
  | .cfTmo => { c with cfTmo := v }
  | .appTmo => { c with appTmo := v }
  | .respPolls => { c with respPolls := v.setWidth 8 }
  | .ifg => { c with ifg := v }

/-- The value of a CSR, zero-extended (rules R13, R34). -/
def csrRead (r : Csr) (c : Csrs) : Word :=
  match r with
  | .nad => c.nad.setWidth 16
  | .profile => c.profile.setWidth 16
  | .maxRetries => c.maxRetries.setWidth 16
  | .fcBs => c.fcBs.setWidth 16
  | .fcStmin => c.fcStmin.setWidth 16
  | .respTmo => c.respTmo
  | .cfTmo => c.cfTmo
  | .appTmo => c.appTmo
  | .respPolls => c.respPolls.setWidth 16
  | .ifg => c.ifg

/-- What the host can read between steps (rules R44, R229). -/
inductive Port where
  | cur | status | rbyte | rpid | rlen
  | dbuf (i : BitVec 4) | rbuf (i : Nat) | coll (i : Nat)
  | tlen | retry | att
  | csr (i : BitVec 6)
deriving DecidableEq, Repr

/-- A host read: it has no side effect (rule R65), so it is a function of the state.  A byte that holds no value
gives none (entry I2); a reserved CSR index reads as 0 (rule R38). -/
def readPort (p : Port) (s : State) : Option Word :=
  match p with
  | .cur => some s.cur
  | .status => some s.status.word
  | .rbyte => some (s.rbyte.setWidth 16)
  | .rpid => some (s.rpid.setWidth 16)
  | .rlen => some (s.rlen.setWidth 16)
  | .dbuf i => (s.dbuf.read i.toNat).map (·.setWidth 16)
  | .rbuf i => (s.rbuf.read i).map (·.setWidth 16)
  | .coll i => s.coll[i]?.map (·.setWidth 16)
  | .tlen => some (s.tlen.setWidth 16)
  | .retry => some (s.retry.setWidth 16)
  | .att => some (s.att.setWidth 16)
  | .csr i =>
    match csrOfIndex i with
    | some r => some (csrRead r s.csr)
    | none => some 0

end Sys2Proof.Machine
end

