-- ==== Sys2Proof/Machine/Codec.lean ====
section
/-! DEFINITION. The codec commands (40_codec.md, rules R107 to R111 and R113). -/

namespace Sys2Proof.Machine

/-- The body of FENC (rule R110). -/
def encodeFrame (id : BitVec 6) (k : Cksum) (data : List Byte) (s : State) : State :=
  let p := computePid id
  let cs := frameChecksum k p data
  finishOk { setResult ([0x55, p] ++ data ++ [cs]) s with rbyte := cs, rpid := p }

/-- The body of FDEC on `data ++ [cs]` (rule R111). -/
def decodeFrame (id : BitVec 6) (policy : Policy) (bytes : List Byte) (s : State) : State :=
  let p := computePid id
  let cls := validate bytes.dropLast (bytes.getLastD 0) p policy
  finishWith cls.outcome (setCheck cls.matched cls { setResult bytes.dropLast s with rpid := p })

/-- Deliver a capture parse as a command's result (rules R113, R136). -/
def deliver (r : Parsed) (s : State) : State :=
  finishWith r.kind (setCheck r.cls.matched r.cls (setResult r.data s))

/-- The body of SCAN (rule R113). -/
def scanCapture (id : BitVec 6) (policy : Policy) (bytes : List Byte) (s : State) : State :=
  deliver (parse (computePid id) bytes policy) { s with rpid := computePid id }

/-- PID (rule R107). -/
def execPid (id : BitVec 6) (s : State) : Host.Outcome State Fault Refusal :=
  .next (finishOk { s with rbyte := computePid id, rpid := computePid id })

/-- CKSC (rule R108). -/
def execCksc (len : BitVec 4) (s : State) : Host.Outcome State Fault Refusal :=
  withOperands len.toNat s fun data => finishOk { s with rbyte := checksum data 0 }

/-- CKSE (rule R109). -/
def execCkse (id : BitVec 6) (len : BitVec 4) (s : State) : Host.Outcome State Fault Refusal :=
  withOperands len.toNat s fun data =>
    finishOk { s with rbyte := checksum data (computePid id), rpid := computePid id }

/-- FENC.C (rule R110). -/
def execFencC (id : BitVec 6) (len : BitVec 4) (s : State) : Host.Outcome State Fault Refusal :=
  withOperands len.toNat s fun data => encodeFrame id .classic data s

/-- FENC.E (rule R110). -/
def execFencE (id : BitVec 6) (len : BitVec 4) (s : State) : Host.Outcome State Fault Refusal :=
  withOperands len.toNat s fun data => encodeFrame id .enhanced data s

/-- FDEC.C (rule R111). -/
def execFdecC (id : BitVec 6) (len : BitVec 4) (s : State) : Host.Outcome State Fault Refusal :=
  withOperands len.toNat s fun bytes => decodeFrame id .classic bytes s

/-- FDEC.E (rule R111). -/
def execFdecE (id : BitVec 6) (len : BitVec 4) (s : State) : Host.Outcome State Fault Refusal :=
  withOperands len.toNat s fun bytes => decodeFrame id .enhanced bytes s

/-- FDEC.CE (rule R111). -/
def execFdecCE (id : BitVec 6) (len : BitVec 4) (s : State) : Host.Outcome State Fault Refusal :=
  withOperands len.toNat s fun bytes => decodeFrame id .classicThenEnhanced bytes s

/-- SCAN.C (rule R113). -/
def execScanC (id : BitVec 6) (len : BitVec 4) (s : State) : Host.Outcome State Fault Refusal :=
  withOperands len.toNat s fun bytes => scanCapture id .classic bytes s

/-- SCAN.E (rule R113). -/
def execScanE (id : BitVec 6) (len : BitVec 4) (s : State) : Host.Outcome State Fault Refusal :=
  withOperands len.toNat s fun bytes => scanCapture id .enhanced bytes s

/-- SCAN.CE (rule R113). -/
def execScanCE (id : BitVec 6) (len : BitVec 4) (s : State) : Host.Outcome State Fault Refusal :=
  withOperands len.toNat s fun bytes => scanCapture id .classicThenEnhanced bytes s

end Sys2Proof.Machine
end

