-- ==== Sys2Proof/Machine/Bus.lean ====
section
/-! DEFINITION. The bus commands (41_bus.md, rules R131, R134 and R136). -/

namespace Sys2Proof.Machine

/-- The body of RECV: one poll with `APP_TMO` (rules R136, R137). -/
def pollSlave (id : BitVec 6) (policy : Policy) (s : State) : State :=
  deliver (recvParsed id policy s) (recvState id s.csr.appTmo s)

/-- HDR (rule R131). -/
def execHdr (id : BitVec 6) (s : State) : Host.Outcome State Fault Refusal := .next (finishOk (header id s))

/-- SEND.C (rule R134). -/
def execSendC (id : BitVec 6) (len : BitVec 4) (s : State) : Host.Outcome State Fault Refusal :=
  withOperands len.toNat s fun data => finishOk (send id data .classic s)

/-- SEND.E (rule R134). -/
def execSendE (id : BitVec 6) (len : BitVec 4) (s : State) : Host.Outcome State Fault Refusal :=
  withOperands len.toNat s fun data => finishOk (send id data .enhanced s)

/-- RECV.C (rule R136). -/
def execRecvC (id : BitVec 6) (s : State) : Host.Outcome State Fault Refusal := .next (pollSlave id .classic s)

/-- RECV.E (rule R136). -/
def execRecvE (id : BitVec 6) (s : State) : Host.Outcome State Fault Refusal := .next (pollSlave id .enhanced s)

/-- RECV.CE (rule R136). -/
def execRecvCE (id : BitVec 6) (s : State) : Host.Outcome State Fault Refusal :=
  .next (pollSlave id .classicThenEnhanced s)

end Sys2Proof.Machine
end

