-- ==== Sys2Proof/Machine/Transport.lean ====
section
/-! DEFINITION. The diagnostic transport (42_transport.md): DREQ's request step (rules R151, R154), and the meaning
of each received frame as the first response and during reassembly (rules R87, R158 to R169). -/

namespace Sys2Proof.Machine

/-- `DIAG_REQ_ID` (rules R81, R150). -/
def diagReqId : BitVec 6 := 0x3C
/-- `DIAG_RESP_ID` (rules R81, R150). -/
def diagRespId : BitVec 6 := 0x3D

/-- `buildReq` on `[SID] ++ data` (rule R151): its PCI byte is `1 + len(data)`, the number of bytes given. -/
def buildReq (nad : Byte) (body : List Byte) : List Byte :=
  [nad, BitVec.ofNat 8 body.length] ++ body ++ List.replicate (6 - body.length) 0xFF

/-- `buildFC()` (rule R152). -/
def buildFC (c : Csrs) : List Byte := [c.nad, 0x30, c.fcBs, c.fcStmin, 0xFF, 0xFF, 0xFF, 0xFF]

/-- The request step (rule R154). -/
def sendRequest (body : List Byte) (s : State) : State :=
  let t : State := { setResult [] (setTState .idle s) with att := 0 }
  setTState .awaitingResponse (send diagReqId (buildReq s.csr.nad body) .classic t)

/-- DREQ (rules R153, R154).  Its later steps are polls; each usable poll runs the received frame. -/
def execDreq (len : BitVec 4) (s : State) : Host.Outcome State Fault Refusal :=
  withOperands len.toNat s fun body => sendRequest body s

/-- `fail(k)`: `RLEN <- 0; TSTATE <- Failed; finish_fail(k)` (rule R170). -/
def failExchange (k : FKind) (s : State) : State := finishFail k (setTState .failed (setResult [] s))

/-- Success of a reassembly (rule R169). -/
def completeExchange (s : State) : State :=
  finishOk (setTState .done (setResult (s.coll.take s.tlen.toNat) s))

/-- The completion test (rule R163). -/
def completionTest (s : State) : State := if s.tlen.toNat ≤ s.coll.length then completeExchange s else s

/-- An unusable poll during reassembly (rule R167) and retry exhaustion (rule R168). -/
def unusablePoll (s : State) : State :=
  let n := s.retry.toNat + 1
  let t : State := { s with retry := BitVec.ofNat 5 n }
  if n > s.csr.maxRetries.toNat then
    finishFail .retryExhausted (setTState .failed (setResult (s.coll.take s.tlen.toNat) t))
  else t

/-- A reassembly is in progress (rules R87, R164); else a frame is a first response. -/
def inReassembly (s : State) : Bool :=
  match s.status.tstate with
  | .reassembling => true
  | .idle | .awaitingResponse | .singleFrameDone | .done | .failed => false

/-- A Single Frame as the first response (rule R158). -/
def acceptSingle (n : BitVec 4) (data : List Byte) (s : State) : State :=
  if n.toNat > data.length then failExchange .protocol s
  else finishOk (setTState .done (setResult (data.take n.toNat) s))

/-- Send the Flow Control frame in the Flow-Control profile (rules R161, R162). -/
def flowControl (s : State) : State :=
  if s.csr.profile = 0 then send diagReqId (buildFC s.csr) .classic s else s

/-- A First Frame as the first response (rules R160 to R163). -/
def acceptFirst (hi : BitVec 4) (data : List Byte) (s : State) : State :=
  match data with
  | [] => failExchange .protocol s
  | lo :: seed =>
    completionTest (flowControl (setTState .reassembling
      { s with tlen := hi ++ lo, coll := seed.take 5, retry := 0 }))

/-- A Consecutive Frame during reassembly (rules R165, R166): it needs at least one data byte. -/
def acceptConsecutive (data : List Byte) (s : State) : State :=
  match data with
  | [] => unusablePoll s
  | _ :: _ => completionTest { s with coll := s.coll ++ data.take 6, retry := 0 }

/-- A frame of a type that is never accepted: PROTOCOL as the first response (rule R159), an unusable poll during
reassembly (rule R167). -/
def rejectFrame (s : State) : State := if inReassembly s then unusablePoll s else failExchange .protocol s

/-- SF (rules R158, R167). -/
def execSf (n : BitVec 4) (data : List Byte) (s : State) : Host.Outcome State Fault Refusal :=
  .next (if inReassembly s then unusablePoll s else acceptSingle n data s)

/-- FF (rules R160, R167). -/
def execFf (hi : BitVec 4) (data : List Byte) (s : State) : Host.Outcome State Fault Refusal :=
  .next (if inReassembly s then unusablePoll s else acceptFirst hi data s)

/-- CF (rules R159, R165, R166); the sequence number is not examined (rule R88). -/
def execCf (_seq : BitVec 4) (data : List Byte) (s : State) : Host.Outcome State Fault Refusal :=
  .next (if inReassembly s then acceptConsecutive data s else failExchange .protocol s)

/-- FC received (rules R159, R167, entry I11). -/
def execFc (_sub : BitVec 4) (_data : List Byte) (s : State) : Host.Outcome State Fault Refusal :=
  .next (rejectFrame s)

/-- Reserved type 4 (rules R159, R167, entry I10). -/
def execPciRsv4 (_v : BitVec 4) (_data : List Byte) (s : State) : Host.Outcome State Fault Refusal :=
  .next (rejectFrame s)

/-- Reserved type 5 (rules R159, R167, entry I10). -/
def execPciRsv5 (_v : BitVec 4) (_data : List Byte) (s : State) : Host.Outcome State Fault Refusal :=
  .next (rejectFrame s)

/-- Reserved type 6 (rules R159, R167, entry I10). -/
def execPciRsv6 (_v : BitVec 4) (_data : List Byte) (s : State) : Host.Outcome State Fault Refusal :=
  .next (rejectFrame s)

/-- Reserved type 7 (rules R159, R167, entry I10). -/
def execPciRsv7 (_v : BitVec 4) (_data : List Byte) (s : State) : Host.Outcome State Fault Refusal :=
  .next (rejectFrame s)

/-- Reserved type 8 (rules R159, R167, entry I10). -/
def execPciRsv8 (_v : BitVec 4) (_data : List Byte) (s : State) : Host.Outcome State Fault Refusal :=
  .next (rejectFrame s)

/-- Reserved type 9 (rules R159, R167, entry I10). -/
def execPciRsv9 (_v : BitVec 4) (_data : List Byte) (s : State) : Host.Outcome State Fault Refusal :=
  .next (rejectFrame s)

/-- Reserved type 0xA (rules R159, R167, entry I10). -/
def execPciRsvA (_v : BitVec 4) (_data : List Byte) (s : State) : Host.Outcome State Fault Refusal :=
  .next (rejectFrame s)

/-- Reserved type 0xB (rules R159, R167, entry I10). -/
def execPciRsvB (_v : BitVec 4) (_data : List Byte) (s : State) : Host.Outcome State Fault Refusal :=
  .next (rejectFrame s)

/-- Reserved type 0xC (rules R159, R167, entry I10). -/
def execPciRsvC (_v : BitVec 4) (_data : List Byte) (s : State) : Host.Outcome State Fault Refusal :=
  .next (rejectFrame s)

/-- Reserved type 0xD (rules R159, R167, entry I10). -/
def execPciRsvD (_v : BitVec 4) (_data : List Byte) (s : State) : Host.Outcome State Fault Refusal :=
  .next (rejectFrame s)

/-- Reserved type 0xE (rules R159, R167, entry I10). -/
def execPciRsvE (_v : BitVec 4) (_data : List Byte) (s : State) : Host.Outcome State Fault Refusal :=
  .next (rejectFrame s)

/-- Reserved type 0xF (rules R159, R167, entry I10). -/
def execPciRsvF (_v : BitVec 4) (_data : List Byte) (s : State) : Host.Outcome State Fault Refusal :=
  .next (rejectFrame s)

end Sys2Proof.Machine
end

