-- ==== Sys2Proof/Machine/Control.lean ====
section
/-! DEFINITION. The system commands CFG and RST, and the dispatch of a command word (43_control.md). -/

namespace Sys2Proof.Machine

/-- CFG (rule R193). -/
def execCfg (r : Csr) (s : State) : Host.Outcome State Fault Refusal :=
  withOperands 2 s fun data =>
    if csrLegal r (cfgValue data) then finishOk { s with csr := csrWrite r (cfgValue data) s.csr } else refuse s

/-- RST (rules R194, R240): the trace and the outside's pending inputs stay. -/
def execRst (s : State) : Host.Outcome State Fault Refusal := .next (resetBlock s)

/-- The dispatch of a word that arrives while `BUSY = 0` (rules R190, R192, R195): the body runs from the next
step. -/
def dispatch (w : Word) (s : State) : Host.Outcome State Fault Refusal :=
  match decodeCommand w with
  | .error _ => .next (refuse (startCommand w s))
  | .ok i => withOperands (operandCount i) s fun _ => startCommand w s

/-- A host write to `DBUF[i]`: ignored while busy (rules R23, R64). -/
def hostWrite (i : BitVec 4) (b : Byte) (s : State) : State :=
  if s.status.busy then s else { s with dbuf := s.dbuf.write i.toNat b }

end Sys2Proof.Machine
end

