-- ==== Sys2Proof/Machine/Fetch.lean ====
section
/-! DEFINITION. What the machine does next: the interleaving of the host's actions with the block's steps (rules
R62, R66), the command in progress (rules R21, R22), and DREQ's polls, which fetch the received frame a step
runs (rules R155 to R157, R164, R165). -/

namespace Sys2Proof.Machine

/-- What a step has to do: run an instruction in a state, or nothing but answer. -/
inductive Fetched where
  | run (i : Instr) (s : State)
  | settled (o : Host.Outcome State Fault Refusal)

/-- A captured frame with a PCI byte and the expected NAD (rules R36, R157, R165). -/
def addressed (nad : Byte) (p : List Byte) : Bool := 2 ≤ p.length && p.head? == some nad

/-- The state of an initial-response poll after its `recv` (rule R155). -/
def afterResponsePoll (s : State) : State :=
  let r := recvParsed diagRespId .classic s
  let t := recvState diagRespId s.csr.respTmo s
  { setCheck r.cls.matched r.cls t with att := BitVec.ofNat 8 (s.att.toNat + 1) }

/-- The state of a Consecutive-Frame poll after its `recv` (rule R164). -/
def afterCfPoll (s : State) : State :=
  let r := recvParsed diagRespId .classic s
  let t := recvState diagRespId s.csr.cfTmo s
  setCheck r.cls.matched r.cls t

/-- An initial-response poll step: an unusable poll repeats or fails (rule R156), a frame with no PCI byte or the
wrong NAD fails (rule R157), any other usable frame is run. -/
def pollResponse (s : State) : Fetched :=
  let r := recvParsed diagRespId .classic s
  let t := afterResponsePoll s
  match r.kind with
  | .none =>
    if addressed s.csr.nad r.data then
      match decodeResponse r.data.tail with
      | .ok i => .run i t
      | .error _ => .settled (.next (failExchange .protocol t))
    else .settled (.next (failExchange .protocol t))
  | k => .settled (.next (if s.att.toNat + 1 < s.csr.respPolls.toNat then t else failExchange k t))

/-- A Consecutive-Frame poll step: a failed capture, a frame with no PCI byte or the wrong NAD is unusable (rule
R167), any other frame is run. -/
def pollConsecutive (s : State) : Fetched :=
  let r := recvParsed diagRespId .classic s
  let t := afterCfPoll s
  match r.kind with
  | .none =>
    if addressed s.csr.nad r.data then
      match decodeResponse r.data.tail with
      | .ok i => .run i t
      | .error _ => .settled (.next (unusablePoll t))
    else .settled (.next (unusablePoll t))
  | _ => .settled (.next (unusablePoll t))

/-- A DREQ past its request step polls; every other command in progress runs its body (rules R21, R62). -/
def fetchBody (i : Instr) (s : State) : Fetched :=
  match i, s.status.tstate with
  | .dreq _, .awaitingResponse => pollResponse s
  | .dreq _, .reassembling => pollConsecutive s
  | _, _ => .run i s

/-- The block's own next step: an idle block stays as it is (rule R228); a busy one runs the latched word (rule
R22).  DESIGN CHOICE, log entry 9: no dispatch leaves a word in `CUR` with `BUSY = 1` that spells no command; such a state is refused. -/
def fetchBlock (s : State) : Fetched :=
  if s.status.busy then
    match decodeCommand s.cur with
    | .ok i => fetchBody i s
    | .error _ => .settled (.next (refuse s))
  else .settled (.next s)

/-- A word on the command port (rule R70): RST is always accepted (rules R191, R194); while busy any other word is
dropped with `OVR <- 1` (rule R191); else it is dispatched (rule R190). -/
def commandArrives (w : Word) (s : State) : Fetched :=
  match decodeCommand w with
  | .ok .rst => .run .rst s
  | _ => .settled (if s.status.busy then .next (setOverrun s) else dispatch w s)

/-- The next move, in the one interleaving of the host's actions with the block's steps (rule R66). -/
def fetch (s : State) : Fetched :=
  match s.host with
  | [] => fetchBlock s
  | .run :: rest => fetchBlock { s with host := rest }
  | .write i b :: rest => .settled (.next (hostWrite i b { s with host := rest }))
  | .issue w :: rest => commandArrives w { s with host := rest }

/-- Give `DBUF[0..n)` the value 0 where it has none: the operand words of zeros of a placed instruction. -/
def fillOperands (m : Memory) : Nat → Memory
  | 0 => m
  | n + 1 =>
    let m' := fillOperands m n
    match m'.read n with
    | some _ => m'
    | none => m'.write n 0

/-- A command in progress with its operands defined, its body the next step; RST is issued on the command port,
and so is a word that spells no command. -/
def placeCommand (w : Word) (s : State) : State :=
  match decodeCommand w with
  | .ok .rst | .error _ => { s with host := .issue w :: s.host }
  | .ok i => { startCommand w { s with dbuf := fillOperands s.dbuf (operandCount i) } with host := .run :: s.host }

/-- A DREQ waiting for its first response, and a capture of the frame `[NAD] ++ bytes` with the header's echo (rule
R247) and its Classic checksum as the next poll's answer; the NAD is set to 0. -/
def placeResponse (bytes : List Byte) (s : State) : State :=
  let frame : List Byte := 0 :: bytes
  let capture : List Byte := [0x55, computePid diagRespId] ++ frame ++ [checksum frame 0]
  let t := setTState .awaitingResponse (startCommand 0xA001 s)
  { t with
    att := 0
    csr := { s.csr with nad := 0 }
    xcvr := { s.xcvr with rx := capture :: s.xcvr.rx }
    host := .run :: s.host }

end Sys2Proof.Machine
end

