-- ==== Sys2Proof/Machine/Dispatch.lean ====
section
/-! DEFINITION. The meaning of each instruction of spec/opcode_table.json, one arm per constructor. -/

namespace Sys2Proof.Machine

def exec (i : Instr) (s : State) : Host.Outcome State Fault Refusal :=
  match i with
  | .pid id => Sys2Proof.Machine.execPid id s
  | .cksc len => Sys2Proof.Machine.execCksc len s
  | .ckse id len => Sys2Proof.Machine.execCkse id len s
  | .fencC id len => Sys2Proof.Machine.execFencC id len s
  | .fencE id len => Sys2Proof.Machine.execFencE id len s
  | .fdecC id len => Sys2Proof.Machine.execFdecC id len s
  | .fdecE id len => Sys2Proof.Machine.execFdecE id len s
  | .fdecCE id len => Sys2Proof.Machine.execFdecCE id len s
  | .scanC id len => Sys2Proof.Machine.execScanC id len s
  | .scanE id len => Sys2Proof.Machine.execScanE id len s
  | .scanCE id len => Sys2Proof.Machine.execScanCE id len s
  | .hdr id => Sys2Proof.Machine.execHdr id s
  | .sendC id len => Sys2Proof.Machine.execSendC id len s
  | .sendE id len => Sys2Proof.Machine.execSendE id len s
  | .recvC id => Sys2Proof.Machine.execRecvC id s
  | .recvE id => Sys2Proof.Machine.execRecvE id s
  | .recvCE id => Sys2Proof.Machine.execRecvCE id s
  | .dreq len => Sys2Proof.Machine.execDreq len s
  | .cfg r => Sys2Proof.Machine.execCfg r s
  | .rst => Sys2Proof.Machine.execRst s
  | .sf n data => Sys2Proof.Machine.execSf n data s
  | .ff hi data => Sys2Proof.Machine.execFf hi data s
  | .cf seq data => Sys2Proof.Machine.execCf seq data s
  | .fc sub data => Sys2Proof.Machine.execFc sub data s
  | .pciRsv4 v data => Sys2Proof.Machine.execPciRsv4 v data s
  | .pciRsv5 v data => Sys2Proof.Machine.execPciRsv5 v data s
  | .pciRsv6 v data => Sys2Proof.Machine.execPciRsv6 v data s
  | .pciRsv7 v data => Sys2Proof.Machine.execPciRsv7 v data s
  | .pciRsv8 v data => Sys2Proof.Machine.execPciRsv8 v data s
  | .pciRsv9 v data => Sys2Proof.Machine.execPciRsv9 v data s
  | .pciRsvA v data => Sys2Proof.Machine.execPciRsvA v data s
  | .pciRsvB v data => Sys2Proof.Machine.execPciRsvB v data s
  | .pciRsvC v data => Sys2Proof.Machine.execPciRsvC v data s
  | .pciRsvD v data => Sys2Proof.Machine.execPciRsvD v data s
  | .pciRsvE v data => Sys2Proof.Machine.execPciRsvE v data s
  | .pciRsvF v data => Sys2Proof.Machine.execPciRsvF v data s

end Sys2Proof.Machine
end

