-- ==== Sys2Proof/Machine/Step.lean ====
section
/-! DEFINITION. One step of the machine, and where the host places an instruction the next step runs. -/

namespace Sys2Proof.Machine

/-- One move: a step of the block (rule R62) or one action of the host (rule R66). -/
def step (s : State) : Host.Outcome State Fault Refusal :=
  match fetch s with
  | .run i t => exec i t
  | .settled o => o

/-- `s` with the table's instruction of `nbits` bits where the very next step runs it: a command word dispatched and
in progress, or a received frame as the answer to the first poll of a DREQ in progress (DESIGN CHOICE: log entry 6). -/
def State.withFetchWord (s : State) (nbits w : Nat) : State :=
  match nbits with
  | 8 => placeResponse (tableFrame w) s
  | _ => placeCommand (BitVec.ofNat 16 w) s

end Sys2Proof.Machine
end

