-- ==== Sys2Proof/Machine/Assembly.lean ====
section
/-! DEFINITION. What one line of assembly makes the host do (rule R90), and the pseudo-instructions (rule R91). -/

namespace Sys2Proof.Machine

/-- The host writes `DBUF[i] <- b0; DBUF[i+1] <- b1; ...` (rule R90). -/
def writesFrom (i : Nat) : List Byte → List HostAction
  | [] => []
  | b :: rest => .write (BitVec.ofNat 4 i) b :: writesFrom (i + 1) rest

/-- The word of a command; a received frame is no command and has none. -/
def commandWord (i : Instr) : Option Word :=
  match encode i with
  | .command w => some w
  | .response _ => none

/-- One assembly line: the operand writes, then the command word (rule R90). -/
def assemble (i : Instr) (bytes : List Byte) : List HostAction :=
  match commandWord i with
  | some w => writesFrom 0 bytes ++ [.issue w]
  | none => []

/-- `CFG <csrname>, <value>`: low byte, high byte, then the word (rule R90). -/
def assembleCfg (r : Csr) (v : Word) : List HostAction :=
  assemble (.cfg r) [v.extractLsb' 0 8, v.extractLsb' 8 8]

/-- `RECV <id>` is `RECV.E <id>` (rule R91). -/
def assembleRecv (id : BitVec 6) : List HostAction := assemble (.recvE id) []

/-- `SETNAD <v>` is `CFG NAD, <v>` (rule R91). -/
def assembleSetNad (v : Word) : List HostAction := assembleCfg .nad v

/-- `RDLID <lid>` is `DREQ 0x21, [<lid>]` (rule R91). -/
def assembleReadLocalId (lid : Byte) : List HostAction := assemble (.dreq 2) [0x21, lid]

/-- `TPRESENT` is `DREQ 0x3E, []` (rule R91). -/
def assembleTesterPresent : List HostAction := assemble (.dreq 1) [0x3E]

end Sys2Proof.Machine
end

