-- ==== Sys2Proof/Safety.lean ====
section
/-! DEFINITION. What holds between steps, in the terms the statements use: the invariant of the block's state, and
the measure that bounds an exchange (rule R171). -/

namespace Sys2Proof.Machine

/-- `RBUF` holds exactly the bytes `l` at the indices from 0 on (rule R33). -/
def HoldsPrefix (m : Memory) (l : List Byte) : Prop := m = Memory.ofBytesAt 0 l

/-- What every state between steps meets. -/
structure BlockInv (s : State) : Prop where
  /-- `DBUF` is in canonical form. -/
  dbuf_wf : s.dbuf.wf = true
  /-- `DBUF` lists indices 0..15 only (rule R50). -/
  dbuf_bound : ∀ c ∈ s.dbuf, c.1 < 16
  /-- `RBUF` is a prefix of `RLEN` bytes, at most 4095 (rules R32, R33, R53). -/
  result : ∃ l : List Byte, HoldsPrefix s.rbuf l ∧ l.length = s.rlen.toNat ∧ l.length ≤ 4095
  /-- `DONE` and `FAIL` are never both 1 (rule R25). -/
  outcome : ¬(s.status.done = true ∧ s.status.fail = true)
  /-- While `BUSY` both are 0 (rule R25). -/
  busy_open : s.status.busy = true → s.status.done = false ∧ s.status.fail = false
  /-- `FKIND` is 0 exactly while `FAIL` is 0 (rules R24, R210). -/
  kind_iff : s.status.fail = false ↔ s.status.fkind = .none
  /-- `CKOK` is 1 exactly when a kind matched (rules R26, R27). -/
  check : s.status.ckok = s.status.rclass.matched
  /-- `SingleFrameDone` is never seen between steps (rule R40). -/
  transient : s.status.tstate ≠ .singleFrameDone
  /-- A busy block holds a command whose operands are defined (rules R22, R190). -/
  command : s.status.busy = true → ∃ i, decodeCommand s.cur = .ok i ∧ (operands (operandCount i) s).isSome = true
  /-- Only a DREQ in progress is in a polling state (rules R21, R40). -/
  exchange : polling s = true → s.status.busy = true ∧ ∃ len, decodeCommand s.cur = .ok (.dreq len)
  /-- `MAX_RETRIES` lies in 20..30 (rule R37). -/
  max_retries : 20 ≤ s.csr.maxRetries.toNat ∧ s.csr.maxRetries.toNat ≤ 30
  /-- `RESP_POLLS` is at least 1 (rules R34, R193). -/
  resp_polls : 1 ≤ s.csr.respPolls.toNat
  /-- Before another initial poll, fewer than `RESP_POLLS` were made (rule R156). -/
  attempts : s.status.tstate = .awaitingResponse → s.att.toNat < s.csr.respPolls.toNat
  /-- `COLL` holds at most 4100 bytes (rule R60). -/
  coll_bound : s.coll.length ≤ 4100
  /-- Before another Consecutive-Frame poll, bytes are missing and retries are left (rules R163, R168). -/
  pending : s.status.tstate = .reassembling →
    s.coll.length < s.tlen.toNat ∧ s.retry.toNat ≤ s.csr.maxRetries.toNat

/-- The most polls an exchange in progress can still make (rule R171). -/
def pollsLeft (s : State) : Nat :=
  match s.status.tstate with
  | .awaitingResponse => s.csr.respPolls.toNat - s.att.toNat + 4096 * 31
  | .reassembling =>
    (s.tlen.toNat - s.coll.length) * (s.csr.maxRetries.toNat + 1) + (s.csr.maxRetries.toNat + 1 - s.retry.toNat)
  | .idle | .singleFrameDone | .done | .failed => 0

/-- The state after `k` moves of the machine, none where one of them stops. -/
def moves : Nat → State → Option State
  | 0, s => some s
  | k + 1, s =>
    match step s with
    | .next t => moves k t
    | .fault _ | .refused _ => none

/-! ### The terms of the statements -/

/-- `STATUS` after `finish_ok()` (rule R15). -/
def Status.ended (st : Status) : Status := { st with busy := false, done := true, fail := false, fkind := .none }

/-- `STATUS` after `finish_fail(k)` (rule R15). -/
def Status.failed (k : FKind) (st : Status) : Status :=
  { st with busy := false, done := false, fail := true, fkind := k }

/-- `STATUS` after a checksum verdict and the completion it decides (rules R106, R111). -/
def Status.judged (cls : RClass) (st : Status) : Status :=
  match cls with
  | .none => Status.failed .checksum { st with ckok := false, rclass := .none }
  | .classic => Status.ended { st with ckok := true, rclass := .classic }
  | .enhanced => Status.ended { st with ckok := true, rclass := .enhanced }

/-- `DBUF[0..len(bytes)) = bytes`, every one of these bytes holding a value (rule R23). -/
def DbufHolds (s : State) (bytes : List Byte) : Prop := ∀ k, k < bytes.length → s.dbuf.read k = bytes[k]?

/-- Some byte of `DBUF[0..n)` holds no value (rule R23). -/
def DbufLacks (s : State) (n : Nat) : Prop := ∃ k, k < n ∧ s.dbuf.read k = none

/-- The sum of the bytes of a sequence, unbounded. -/
def byteSum (data : List Byte) : Nat := (data.map BitVec.toNat).sum

/-- `fold` (rule R103). -/
def foldSum (total : Nat) : Nat := if total = 0 then 0 else 1 + (total - 1) % 255

/-- `CMD[11:6]` is legal for the opcode (rule R76). -/
def idLegal (op id : Nat) : Bool :=
  match op with
  | 0x1 | 0x3 | 0x4 | 0x5 | 0x6 | 0x7 | 0x8 | 0x9 => id ≤ 63
  | 0x2 | 0xA | 0xC => id == 0
  | 0xB => id ≤ 9
  | _ => false

/-- `CMD[5:4]` is legal for the opcode (rule R74). -/
def kindLegal (op kind : Nat) : Bool :=
  match op with
  | 0x4 | 0x8 => kind ≤ 1
  | 0x5 | 0x6 | 0x9 => kind ≤ 2
  | _ => kind == 0

/-- `CMD[3:0]` is legal for the opcode (rule R75). -/
def lenLegal (op len : Nat) : Bool :=
  match op with
  | 0x1 | 0x7 | 0x9 | 0xB | 0xC => len == 0
  | 0x2 | 0x3 | 0x4 | 0x8 => len ≤ 8
  | 0x5 => 1 ≤ len && len ≤ 9
  | 0x6 => len ≤ 11
  | 0xA => 1 ≤ len && len ≤ 6
  | _ => false

/-- The word's opcode and fields pass every check of rule R190. -/
def wordLegal (w : Word) : Bool :=
  let op := (w >>> 12).toNat
  (1 ≤ op && op ≤ 0xC) && idLegal op ((w >>> 6) &&& 0x3F).toNat && kindLegal op ((w >>> 4) &&& 0x3).toNat
    && lenLegal op (w &&& 0xF).toNat

/-- How many `DBUF` bytes the word's opcode reads (rule R72). -/
def operandsOfWord (w : Word) : Nat :=
  match (w >>> 12).toNat with
  | 0x2 | 0x3 | 0x4 | 0x5 | 0x6 | 0x8 | 0xA => (w &&& 0xF).toNat
  | 0xB => 2
  | _ => 0

/-- The legal written values of a CSR as the table of rule R34 lists them. -/
def valueLegal (r : Csr) (v : Nat) : Prop :=
  match r with
  | .nad | .fcBs | .fcStmin => v ≤ 0xFF
  | .profile => v = 0 ∨ v = 1
  | .maxRetries => 20 ≤ v ∧ v ≤ 30
  | .respPolls => 1 ≤ v ∧ v ≤ 255
  | .respTmo | .cfTmo | .appTmo | .ifg => v ≤ 0xFFFF

/-- The events of `header(id)` (rule R130), with the value `X.bsi` returned. -/
def headerEvents (id : BitVec 6) (returned : Byte) : List Event := [.flush, .bsi id returned]

/-- The events of a send of `data` with checksum `cs` and gap `gap` (rule R134). -/
def sendEvents (id : BitVec 6) (returned : Byte) (data : List Byte) (cs : Byte) (gap : Word) : List Event :=
  headerEvents id returned ++ data.map .tx ++ [.tx cs, .wait gap]

/-- The events of a poll (rule R136). -/
def pollEvents (id : BitVec 6) (returned : Byte) (tmo : Word) (answer : List Byte) : List Event :=
  headerEvents id returned ++ [.rx 11 tmo answer]

/-- A received frame, by the PCI types that are never accepted: FC and the reserved types (rule R87). -/
def neverAccepted : Instr → Bool
  | .fc _ _ | .pciRsv4 _ _ | .pciRsv5 _ _ | .pciRsv6 _ _ | .pciRsv7 _ _ | .pciRsv8 _ _ | .pciRsv9 _ _
  | .pciRsvA _ _ | .pciRsvB _ _ | .pciRsvC _ _ | .pciRsvD _ _ | .pciRsvE _ _ | .pciRsvF _ _ => true
  | _ => false

/-- A received frame that is no usable Consecutive Frame (rule R165). -/
def unusableFrame : Instr → Bool
  | .sf _ _ | .ff _ _ => true
  | .cf _ data => data.length == 0
  | i => neverAccepted i

/-- A received diagnostic frame, not a command. -/
def isFrame (i : Instr) : Bool :=
  match encode i with
  | .command _ => false
  | .response _ => true

/-- The host lets the block move: nothing is pending from it, or the block's step is what it does next; `rest` is
what is pending after that step (log entry 2). -/
def LetsBlockRun (rest : List HostAction) (s : State) : Prop := s.host = [] ∧ rest = [] ∨ s.host = .run :: rest

/-- A DREQ is in progress in transport state `ts`, the host lets it move, and `rest` is pending after that. -/
def Exchanging (ts : TState) (rest : List HostAction) (s : State) : Prop :=
  LetsBlockRun rest s ∧ s.status.busy = true ∧ s.status.tstate = ts ∧ ∃ len, decodeCommand s.cur = .ok (.dreq len)

/-- The host has no action pending but to let the block move. -/
def OnlyRuns (s : State) : Prop := ∀ a ∈ s.host, a = .run

/-- An answer no usable Consecutive Frame is parsed from (rules R165, R167). -/
def UnusableAnswer (nad : Byte) (answer : List Byte) : Prop :=
  ¬∃ seq b f cls, parse 0x7D (answer.take 11) .classic = { kind := .none, data := nad :: pciByte 2 seq :: b :: f, cls := cls }

/-- The answers of successive Consecutive-Frame polls that bring the bytes `rest`, the last frame padded, with
fewer than `max + 1` unusable answers in a row, `r` of them already seen (rule R174). -/
inductive CfAnswers (nad : Byte) (max : Nat) : Nat → List Byte → List (List Byte) → Prop where
  | complete (r : Nat) : CfAnswers nad max r [] []
  | frame (r : Nat) (rest : List Byte) (answer : List Byte) (more : List (List Byte)) (seq : BitVec 4)
      (f : List Byte) (cls : RClass)
      (missing : rest ≠ [])
      (usable : parse 0x7D (answer.take 11) .classic = { kind := .none, data := nad :: pciByte 2 seq :: f, cls := cls })
      (full : f.length = 6)
      (carries : f.take rest.length = rest.take 6)
      (tail : CfAnswers nad max 0 (rest.drop 6) more) : CfAnswers nad max r rest (answer :: more)
  | unusable (r : Nat) (rest : List Byte) (answer : List Byte) (more : List (List Byte))
      (missing : rest ≠ [])
      (bad : UnusableAnswer nad answer)
      (left : r < max)
      (tail : CfAnswers nad max (r + 1) rest more) : CfAnswers nad max r rest (answer :: more)

/-- An event without the value `X.bsi` returned. -/
def Event.forget : Event → Event
  | .bsi id _ => .bsi id 0
  | e => e

/-- Two states that differ at most in the values `X.bsi` returned and is about to return (rule R226). -/
def SameButReturned (s t : State) : Prop :=
  { s with trace := [], xcvr := { s.xcvr with bsi := [] } } = { t with trace := [], xcvr := { t.xcvr with bsi := [] } }
    ∧ s.trace.map Event.forget = t.trace.map Event.forget ∧ s.xcvr.bsi.length = t.xcvr.bsi.length

end Sys2Proof.Machine
end

