-- ==== Sys2Proof/Certificates/Slice0/Obligations.lean ====
section
/-! DEFINITION. What is claimed of the model, from the numbered rules of spec/. -/

open Sys2Proof Sys2Proof.Machine

/-! ### Encoding -/

/-- Every well-formed instruction decodes from its encoding (rules R71 to R76, R82, R92). -/
def Obligations.DecodeInvertsEncode : Prop :=
  ∀ i : Instr, i.wellFormed = true → decode (encode i) = .ok i

/-- Whatever decodes is well-formed and is the encoding of what it decodes to: no bit is dropped. -/
def Obligations.EncodeInvertsDecode : Prop :=
  ∀ (c : Code) (i : Instr), decode c = .ok i → i.wellFormed = true ∧ encode i = c

/-- Rule R78: a word is admitted by exactly one `cmd` row of the table, whose mnemonic its decoding has, or it spells
no command; and no two rows select the same word. -/
def Obligations.EveryWordIsOneRowOrRefused : Prop :=
  ∀ w : Word,
    (∀ i, decodeCommand w = .ok i → ∃ r ∈ commandRows, r.admits w = true ∧ r.mnemonic = i.mnemonic) ∧
    (∀ r ∈ commandRows, r.admits w = true → ∃ i, decodeCommand w = .ok i ∧ i.mnemonic = r.mnemonic) ∧
    (∀ r ∈ commandRows, ∀ q ∈ commandRows, r.selects w = true → q.selects w = true → r = q)

/-- Rule R92: the encoding of a command in hexadecimal, and its examples. -/
def Obligations.CommandWordFormula : Prop :=
  (∀ op id kind len, (packWord op id kind len).toNat =
    (op.toNat <<< 12) ||| (id.toNat <<< 6) ||| (kind.toNat <<< 4) ||| len.toNat) ∧
  encode (.pid 0x3D) = .command 0x1F40 ∧ encode (.sendC 0x3C 8) = .command 0x8F08 ∧
  encode (.recvC 0x3D) = .command 0x9F40 ∧ encode (.recvE 0x10) = .command 0x9410 ∧
  assemble (.dreq 2) [0x21, 0x01] = [.write 0 0x21, .write 1 0x01, .issue 0xA002] ∧
  assembleCfg .nad 0x12 = [.write 0 0x12, .write 1 0x00, .issue 0xB000] ∧ encode .rst = .command 0xC000

/-- Words written out from the tables of rules R71, R73, R74 and R82 decode to what they stand for. -/
def Obligations.WrittenOutWordsDecode : Prop :=
  decode (.command 0b0010000000000011) = .ok (.cksc 3) ∧
  decode (.command 0b0100010000010010) = .ok (.fencE 0x10 2) ∧
  decode (.command 0b0110010000100101) = .ok (.scanCE 0x10 5) ∧
  decode (.command 0b1011001001000000) = .ok (.cfg .ifg) ∧
  decode (.response [0b00000011, 0x61, 0x01, 0xAB]) = .ok (.sf 3 [0x61, 0x01, 0xAB]) ∧
  decode (.response [0b00010000, 0x0A]) = .ok (.ff 0 [0x0A]) ∧
  decode (.response [0b10110111]) = .ok (.pciRsvB 7 [])

/-! ### Dispatch and the step -/

/-- Rule R190: the dispatch of a word that arrives while `BUSY = 0`.  A word that fails a field check changes nothing
but `CUR` and the status fields; a word that passes them is latched if all its operand bytes hold a value, and
is the model fault if one does not.  (The reset word is rule R194's: `ResetCommandResets`.) -/
def Obligations.DispatchOfAnArrivingWord : Prop :=
  ∀ (s : State) (w : Word) (rest : List HostAction),
    s.status.busy = false → s.host = .issue w :: rest → w ≠ 0xC000 →
    (wordLegal w = false →
      step s = .next { s with
        host := rest, cur := w,
        status := { s.status with
          busy := false, done := false, fail := true, fkind := .refused, ckok := false, rclass := .none } }) ∧
    (wordLegal w = true → ∀ bytes, bytes.length = operandsOfWord w → DbufHolds s bytes →
      step s = .next { s with
        host := rest, cur := w,
        status := { s.status with
          busy := true, done := false, fail := false, fkind := .none, ckok := false, rclass := .none } }) ∧
    (wordLegal w = true → DbufLacks s (operandsOfWord w) → step s = .fault .undefOperand)

/-- Rule R191: a word that arrives while `BUSY = 1` is dropped and sets `OVR`; the reset word is accepted. -/
def Obligations.WordWhileBusyIsDropped : Prop :=
  ∀ (s : State) (w : Word) (rest : List HostAction), s.status.busy = true → s.host = .issue w :: rest →
    (w ≠ 0xC000 → step s = .next { s with host := rest, status := { s.status with ovr := true } }) ∧
    (w = 0xC000 → step s = exec .rst { s with host := rest })

/-- A step runs the command in progress: the latched word is decoded and its meaning runs (rules R21, R22, R62).
The host's queue is empty or lets the block run; a DREQ that is polling is `StepRunsThePolledFrame`'s. -/
def Obligations.StepRunsTheLatchedCommand : Prop :=
  ∀ (s : State) (i : Instr) (rest : List HostAction),
    s.status.busy = true → (s.host = [] ∧ rest = [] ∨ s.host = .run :: rest) →
    decode (.command s.cur) = .ok i → i.wellFormed = true →
    ((∃ len, i = .dreq len) → s.status.tstate ≠ .awaitingResponse ∧ s.status.tstate ≠ .reassembling) →
    step s = exec i { s with host := rest }

/-- A step of a polling DREQ runs the frame its poll captured (rules R155, R157, R164, R165): when the parse of the
answer yields a payload whose first byte is the NAD and whose further bytes decode to `j`, the step is `exec j`
in the state after the poll.  The host's queue is empty or lets the block run, whatever else is pending. -/
def Obligations.StepRunsThePolledFrame : Prop :=
  ∀ (s : State) (ts : TState) (rest : List HostAction) (j : Instr) (bytes : List Byte) (cls : RClass),
    Exchanging ts rest s →
    parse 0x7D (rxAnswer 11 (header 0x3D s)) .classic = { kind := .none, data := s.csr.nad :: bytes, cls := cls } →
    decode (.response bytes) = .ok j →
    (ts = .awaitingResponse →
      ∃ x, step s = exec j { s with
        host := rest, att := BitVec.ofNat 8 (s.att.toNat + 1), rpid := 0x7D, xcvr := x,
        status := { s.status with ckok := true, rclass := .classic },
        trace := s.trace ++ pollEvents 0x3D (bsiReturned s) s.csr.respTmo (rxAnswer 11 (header 0x3D s)) }) ∧
    (ts = .reassembling →
      ∃ x, step s = exec j { s with
        host := rest, rpid := 0x7D, xcvr := x,
        status := { s.status with ckok := true, rclass := .classic },
        trace := s.trace ++ pollEvents 0x3D (bsiReturned s) s.csr.cfTmo (rxAnswer 11 (header 0x3D s)) })

/-- Rule R64: a host write while `BUSY = 1` is ignored; otherwise (rule R23) it stores the one byte. -/
def Obligations.HostWriteToDbuf : Prop :=
  ∀ (s : State) (i : BitVec 4) (b : Byte) (rest : List HostAction), s.host = .write i b :: rest →
    (s.status.busy = true → step s = .next { s with host := rest }) ∧
    (s.status.busy = false → ∃ t, step s = .next t ∧ t = { s with host := rest, dbuf := t.dbuf } ∧
      t.dbuf.read i.toNat = some b ∧ ∀ a, a ≠ i.toNat → t.dbuf.read a = s.dbuf.read a)

/-- Rule R90: a byte list assembles to the host's writes of `DBUF[0]` on, followed by the command word.  From an idle
block the moves of these actions leave the bytes in `DBUF` and the command latched, nothing else changed. -/
def Obligations.AssemblyLineLatchesItsCommand : Prop :=
  ∀ (s : State) (i : Instr) (w : Word) (bytes : List Byte),
    s.status.busy = false → encode i = .command w → i.wellFormed = true → i ≠ .rst →
    bytes.length = operandsOfWord w → s.host = assemble i bytes →
    ∃ t, moves (bytes.length + 1) s = some t ∧ DbufHolds t bytes ∧
      (∀ a, bytes.length ≤ a → t.dbuf.read a = s.dbuf.read a) ∧
      t = { s with
        host := [], cur := w, dbuf := t.dbuf,
        status := { s.status with
          busy := true, done := false, fail := false, fkind := .none, ckok := false, rclass := .none } }

/-! ### The codec -/

/-- Rules R100 and R107: PID writes the protected identifier to `RBYTE` and `RPID` and is done. -/
def Obligations.PidComputesTheProtectedIdentifier : Prop :=
  ∀ (s : State) (id : BitVec 6),
    encode (.pid id) = .command (packWord 0x1 id 0 0) ∧
    exec (.pid id) s = .next { s with rbyte := computePid id, rpid := computePid id, status := s.status.ended } ∧
    (computePid id).extractLsb' 0 6 = id ∧
    (computePid id).getLsbD 6 = (id.getLsbD 0 ^^ id.getLsbD 1 ^^ id.getLsbD 2 ^^ id.getLsbD 4) ∧
    (computePid id).getLsbD 7 = !(id.getLsbD 1 ^^ id.getLsbD 3 ^^ id.getLsbD 4 ^^ id.getLsbD 5)

/-- Rule R103: the closed form of the checksum and its consequences. -/
def Obligations.ChecksumClosedForm : Prop :=
  ∀ (data : List Byte) (seed : Byte),
    (checksum data seed).toNat = 255 - foldSum (seed.toNat + byteSum data) ∧
    (checksum data seed = 0xFF ↔ seed.toNat + byteSum data = 0) ∧
    (checksum data seed = 0x00 ↔ 0 < seed.toNat + byteSum data ∧ (seed.toNat + byteSum data) % 255 = 0) ∧
    ∀ data' : List Byte, data.Perm data' → checksum data' seed = checksum data seed

/-- Rule R105: the two kinds never agree on one frame, so policy Classic-then-Enhanced names the kind that matched
unambiguously. -/
def Obligations.ClassicNeverEqualsEnhanced : Prop :=
  ∀ (id : BitVec 6) (data : List Byte), checksum data 0 ≠ checksum data (computePid id) ∧
    ∀ cs, (validate data cs (computePid id) .classicThenEnhanced = .classic ↔ cs = checksum data 0) ∧
      (validate data cs (computePid id) .classicThenEnhanced = .enhanced ↔ cs = checksum data (computePid id))

/-- Rule R108: CKSC writes the classic checksum of `DBUF[0..LEN)` to `RBYTE` and is done, `RPID` unchanged; an
unwritten byte in range is the model fault. -/
def Obligations.CkscWritesTheClassicChecksum : Prop :=
  ∀ (s : State) (len : BitVec 4),
    encode (.cksc len) = .command (packWord 0x2 0 0 len) ∧
    (∀ data : List Byte, data.length = len.toNat → DbufHolds s data → ∃ cs : Byte,
      exec (.cksc len) s = .next { s with rbyte := cs, status := s.status.ended } ∧
      cs.toNat = 255 - foldSum (byteSum data)) ∧
    (DbufLacks s len.toNat → exec (.cksc len) s = .fault .undefOperand)

/-- Rule R109: CKSE writes the checksum seeded with the PID to `RBYTE`, the PID to `RPID`, and is done. -/
def Obligations.CkseWritesTheEnhancedChecksum : Prop :=
  ∀ (s : State) (id : BitVec 6) (len : BitVec 4),
    encode (.ckse id len) = .command (packWord 0x3 id 0 len) ∧
    (∀ data : List Byte, data.length = len.toNat → DbufHolds s data → ∃ cs : Byte,
      exec (.ckse id len) s = .next { s with rbyte := cs, rpid := computePid id, status := s.status.ended } ∧
      cs.toNat = 255 - foldSum ((computePid id).toNat + byteSum data)) ∧
    (DbufLacks s len.toNat → exec (.ckse id len) s = .fault .undefOperand)

/-- Rule R110: FENC.C and FENC.E write the frame's bytes after the break to `RBUF`, its length to `RLEN`, the
checksum to `RBYTE` and the PID to `RPID`, and are done.  `RBUF` holds exactly these bytes. -/
def Obligations.FencWritesTheFrame : Prop :=
  ∀ (s : State) (id : BitVec 6) (len : BitVec 4) (data : List Byte), data.length = len.toNat → DbufHolds s data →
    encode (.fencC id len) = .command (packWord 0x4 id 0 len) ∧
    encode (.fencE id len) = .command (packWord 0x4 id 1 len) ∧
    (∃ t, exec (.fencC id len) s = .next t ∧
      t = { s with
        rbuf := t.rbuf, rlen := BitVec.ofNat 13 (len.toNat + 3), rbyte := checksum data 0, rpid := computePid id,
        status := s.status.ended } ∧
      ∀ k, t.rbuf.read k = ([0x55, computePid id] ++ data ++ [checksum data 0])[k]?) ∧
    (∃ t, exec (.fencE id len) s = .next t ∧
      t = { s with
        rbuf := t.rbuf, rlen := BitVec.ofNat 13 (len.toNat + 3), rbyte := checksum data (computePid id),
        rpid := computePid id, status := s.status.ended } ∧
      ∀ k, t.rbuf.read k = ([0x55, computePid id] ++ data ++ [checksum data (computePid id)])[k]?)

/-- Rule R111: FDEC validates the last operand byte as the checksum of the others under the policy of its `KIND`,
leaves the data in `RBUF` whatever the verdict, and ends with the verdict. -/
def Obligations.FdecValidatesTheChecksumByte : Prop :=
  ∀ (s : State) (id : BitVec 6) (len : BitVec 4) (data : List Byte) (cs : Byte),
    data.length + 1 = len.toNat → DbufHolds s (data ++ [cs]) →
    ∀ i kind policy, (i, kind, policy) ∈ [(Instr.fdecC id len, (0 : BitVec 2), Policy.classic),
        (Instr.fdecE id len, 1, Policy.enhanced), (Instr.fdecCE id len, 2, Policy.classicThenEnhanced)] →
      encode i = .command (packWord 0x5 id kind len) ∧
      ∃ t, exec i s = .next t ∧
        t = { s with
          rbuf := t.rbuf, rlen := BitVec.ofNat 13 (len.toNat - 1), rpid := computePid id,
          status := s.status.judged (validate data cs (computePid id) policy) } ∧
        ∀ k, t.rbuf.read k = data[k]?

/-- Rule R106: the verdict of each receive policy; `ok` is `matched`. -/
def Obligations.ReceivePolicyVerdicts : Prop :=
  ∀ (data : List Byte) (cs pid : Byte),
    (∀ policy, (validate data cs pid policy).matched = decide (validate data cs pid policy ≠ .none)) ∧
    (validate data cs pid .classic = .classic ↔ cs = checksum data 0) ∧
    (validate data cs pid .classic = .none ↔ cs ≠ checksum data 0) ∧
    (validate data cs pid .enhanced = .enhanced ↔ cs = checksum data pid) ∧
    (validate data cs pid .enhanced = .none ↔ cs ≠ checksum data pid) ∧
    (validate data cs pid .classicThenEnhanced = .classic ↔ cs = checksum data 0) ∧
    (validate data cs pid .classicThenEnhanced = .enhanced ↔ cs ≠ checksum data 0 ∧ cs = checksum data pid) ∧
    (validate data cs pid .classicThenEnhanced = .none ↔ cs ≠ checksum data 0 ∧ cs ≠ checksum data pid)

/-- Rule R114(a): the frame FENC encodes, its bytes from index 2 on given to FDEC, decodes to its payload under the
same kind and under Classic-then-Enhanced, and fails with `CHECKSUM` under the other single policy. -/
def Obligations.FencThenFdecGivesThePayload : Prop :=
  ∀ (s t u : State) (id : BitVec 6) (len dlen : BitVec 4) (data : List Byte) (k : Cksum),
    data.length = len.toNat → len.toNat ≤ 8 → dlen.toNat = len.toNat + 1 → DbufHolds s data →
    exec (match k with | .classic => .fencC id len | .enhanced => .fencE id len) s = .next t →
    (∀ a, a < dlen.toNat → u.dbuf.read a = t.rbuf.read (a + 2)) →
    (∃ v, exec (match k with | .classic => .fdecC id dlen | .enhanced => .fdecE id dlen) u = .next v ∧
      v.status.done = true ∧ v.status.ckok = true ∧ v.rlen.toNat = len.toNat ∧ ∀ a, v.rbuf.read a = data[a]?) ∧
    (∃ v, exec (.fdecCE id dlen) u = .next v ∧ v.status.done = true ∧ v.status.ckok = true ∧
      v.status.rclass = (match k with | .classic => .classic | .enhanced => .enhanced) ∧
      v.rlen.toNat = len.toNat ∧ ∀ a, v.rbuf.read a = data[a]?) ∧
    (∃ v, exec (match k with | .classic => .fdecE id dlen | .enhanced => .fdecC id dlen) u = .next v ∧
      v.status.fail = true ∧ v.status.fkind = .checksum ∧ v.status.ckok = false)

/-- Rules R112 and R213: the capture parse reports the first cause in the order TIMEOUT, NO_PID, SHORT, PROTOCOL,
CHECKSUM, and otherwise the payload between the first PID byte and the last byte. -/
def Obligations.CaptureParseOrder : Prop :=
  ∀ (pid : Byte) (policy : Policy),
    parse pid [] policy = { kind := .timeout, data := [], cls := .none } ∧
    (∀ s, s ≠ [] → pid ∉ s → parse pid s policy = { kind := .noPid, data := [], cls := .none }) ∧
    (∀ pre rest, pid ∉ pre → rest.length < 2 →
      parse pid (pre ++ pid :: rest) policy = { kind := .short, data := [], cls := .none }) ∧
    (∀ pre data cs, pid ∉ pre → 8 < data.length →
      parse pid (pre ++ pid :: (data ++ [cs])) policy = { kind := .protocol, data := [], cls := .none }) ∧
    (∀ pre data cs, pid ∉ pre → 1 ≤ data.length → data.length ≤ 8 →
      parse pid (pre ++ pid :: (data ++ [cs])) policy =
        { kind := (if validate data cs pid policy = .none then .checksum else .none), data := data,
          cls := validate data cs pid policy })

/-- Rule R113: SCAN delivers the capture parse of `DBUF[0..LEN)` under the policy of its `KIND`. -/
def Obligations.ScanDeliversTheParse : Prop :=
  ∀ (s : State) (id : BitVec 6) (len : BitVec 4) (bytes : List Byte), bytes.length = len.toNat → DbufHolds s bytes →
    ∀ i kind policy, (i, kind, policy) ∈ [(Instr.scanC id len, (0 : BitVec 2), Policy.classic),
        (Instr.scanE id len, 1, Policy.enhanced), (Instr.scanCE id len, 2, Policy.classicThenEnhanced)] →
      encode i = .command (packWord 0x6 id kind len) ∧
      ∃ t, exec i s = .next t ∧
        t = { s with
          rbuf := t.rbuf, rpid := computePid id,
          rlen := BitVec.ofNat 13 (parse (computePid id) bytes policy).data.length,
          status := { s.status with
            busy := false
            done := decide ((parse (computePid id) bytes policy).kind = .none)
            fail := decide ((parse (computePid id) bytes policy).kind ≠ .none)
            fkind := (parse (computePid id) bytes policy).kind
            ckok := decide ((parse (computePid id) bytes policy).cls ≠ .none)
            rclass := (parse (computePid id) bytes policy).cls } } ∧
        ∀ k, t.rbuf.read k = (parse (computePid id) bytes policy).data[k]?

/-- Rules R114(b), R114(c) and R248: with the header's echo, a frame of any id but 0x15 parses to its payload, an empty
one is `SHORT`; a frame of id 0x15 parses one byte early, and an Enhanced one, the empty one too, passes as Classic
with the wrong payload. -/
def Obligations.EchoedCaptureRoundTripAndAlias : Prop :=
  ∀ (id : BitVec 6) (k : Cksum) (data : List Byte), data.length ≤ 8 →
    let pid := computePid id
    let capture := [0x55, pid] ++ data ++ [frameChecksum k pid data]
    (id ≠ 0x15 → data = [] → ∀ policy, (parse pid capture policy).kind = .short) ∧
    (id ≠ 0x15 → 1 ≤ data.length →
      parse pid capture (match k with | .classic => .classic | .enhanced => .enhanced) =
        { kind := .none, data := data, cls := (match k with | .classic => .classic | .enhanced => .enhanced) }) ∧
    (id = 0x15 → data.length = 8 → ∀ policy, (parse pid capture policy).kind = .protocol) ∧
    (id = 0x15 → data.length < 8 → k = .classic → ∀ policy, (parse pid capture policy).kind = .checksum) ∧
    (id = 0x15 → data.length < 8 → k = .enhanced →
      (parse pid capture .enhanced).kind = .checksum ∧
      parse pid capture .classic = { kind := .none, data := 0x55 :: data, cls := .classic } ∧
      parse pid capture .classicThenEnhanced = { kind := .none, data := 0x55 :: data, cls := .classic })

/-! ### The bus -/

/-- Rule R131: HDR flushes, sends the header, writes `RPID` and is done, whatever value `X.bsi` returns. -/
def Obligations.HdrSendsTheHeader : Prop :=
  ∀ (s : State) (id : BitVec 6), encode (.hdr id) = .command (packWord 0x7 id 0 0) ∧ ∃ t, exec (.hdr id) s = .next t ∧
    t = { s with
      rpid := computePid id, status := s.status.ended, xcvr := t.xcvr,
      trace := s.trace ++ [.flush, .bsi id (bsiReturned s)] }

/-- Rule R134: SEND.C and SEND.E send the header, each data byte and the checksum byte of their kind, wait the gap
and are done; `RBYTE`, `RLEN` and `RBUF` are unchanged. -/
def Obligations.SendTransmitsTheFrame : Prop :=
  ∀ (s : State) (id : BitVec 6) (len : BitVec 4) (data : List Byte), data.length = len.toNat → DbufHolds s data →
    encode (.sendC id len) = .command (packWord 0x8 id 0 len) ∧
    encode (.sendE id len) = .command (packWord 0x8 id 1 len) ∧
    (∃ t, exec (.sendC id len) s = .next t ∧
      t = { s with
        rpid := computePid id, status := s.status.ended, xcvr := t.xcvr,
        trace := s.trace ++ sendEvents id (bsiReturned s) data (checksum data 0) s.csr.ifg }) ∧
    (∃ t, exec (.sendE id len) s = .next t ∧
      t = { s with
        rpid := computePid id, status := s.status.ended, xcvr := t.xcvr,
        trace := s.trace ++ sendEvents id (bsiReturned s) data (checksum data (computePid id)) s.csr.ifg })

/-- Rules R133, R135 and R136: RECV sends the header, reads once with `APP_TMO` at most 11 bytes, whatever they are,
and delivers their capture parse under the policy of its `KIND`. -/
def Obligations.RecvDeliversOnePoll : Prop :=
  ∀ (s : State) (id : BitVec 6) (i : Instr) (kind : BitVec 2) (policy : Policy),
    (i, kind, policy) ∈ [(Instr.recvC id, (0 : BitVec 2), Policy.classic), (Instr.recvE id, 1, Policy.enhanced),
      (Instr.recvCE id, 2, Policy.classicThenEnhanced)] →
    encode i = .command (packWord 0x9 id kind 0) ∧
    ∃ t answer, exec i s = .next t ∧ answer.length ≤ 11 ∧
      t = { s with
        rbuf := t.rbuf, rpid := computePid id, xcvr := t.xcvr,
        rlen := BitVec.ofNat 13 (parse (computePid id) answer policy).data.length,
        trace := s.trace ++ pollEvents id (bsiReturned s) s.csr.appTmo answer,
        status := { s.status with
          busy := false
          done := decide ((parse (computePid id) answer policy).kind = .none)
          fail := decide ((parse (computePid id) answer policy).kind ≠ .none)
          fkind := (parse (computePid id) answer policy).kind
          ckok := decide ((parse (computePid id) answer policy).cls ≠ .none)
          rclass := (parse (computePid id) answer policy).cls } } ∧
      ∀ k, t.rbuf.read k = (parse (computePid id) answer policy).data[k]?

/-- The model's own choice (log entry 3): an answer listed for `X.rx` is the one the next poll reads, its first 11
bytes, and the poll takes it off the list; the answer is the one recorded in the trace.  RECV and both polls of DREQ. -/
def Obligations.ListedAnswerIsReadNext : Prop :=
  ∀ (s t : State) (a : List Byte) (more : List (List Byte)), s.xcvr.rx = a :: more →
    ((∃ id, exec (.recvC id) s = .next t ∨ exec (.recvE id) s = .next t ∨ exec (.recvCE id) s = .next t) →
      t.xcvr.rx = more ∧ t.trace.getLast? = some (.rx 11 s.csr.appTmo (a.take 11))) ∧
    (∀ rest, Exchanging .awaitingResponse rest s → step s = .next t →
      t.xcvr.rx = more ∧ .rx 11 s.csr.respTmo (a.take 11) ∈ t.trace) ∧
    (∀ rest, Exchanging .reassembling rest s → step s = .next t →
      t.xcvr.rx = more ∧ t.trace.getLast? = some (.rx 11 s.csr.cfTmo (a.take 11)))

/-! ### The diagnostic transport -/

/-- Rules R151 and R154: the request step of DREQ empties the result, clears `ATT`, sends the padded request frame on
id 0x3C with the Classic checksum, once, and awaits the response. -/
def Obligations.DreqSendsItsRequest : Prop :=
  ∀ (s : State) (len : BitVec 4) (sid : Byte) (data : List Byte),
    len.toNat = 1 + data.length → data.length ≤ 5 → DbufHolds s (sid :: data) →
    let frame := [s.csr.nad, BitVec.ofNat 8 (1 + data.length), sid] ++ data ++ List.replicate (5 - data.length) 0xFF
    frame.length = 8 ∧
    ∃ t, exec (.dreq len) s = .next t ∧
      t = { s with
        rlen := 0, rbuf := t.rbuf, att := 0, rpid := 0x3C, xcvr := t.xcvr,
        status := { s.status with tstate := .awaitingResponse },
        trace := s.trace ++ sendEvents 0x3C (bsiReturned s) frame (checksum frame 0) s.csr.ifg } ∧
      ∀ k, t.rbuf.read k = none

/-- Rule R158: a Single Frame as the first response. -/
def Obligations.SingleFrameAsFirstResponse : Prop :=
  ∀ (s : State) (n : BitVec 4) (data : List Byte), s.status.tstate = .awaitingResponse →
    (n.toNat ≤ data.length → ∃ t, exec (.sf n data) s = .next t ∧
      t = { s with
        rbuf := t.rbuf, rlen := BitVec.ofNat 13 n.toNat, status := { s.status.ended with tstate := .done } } ∧
      ∀ k, t.rbuf.read k = (data.take n.toNat)[k]?) ∧
    (data.length < n.toNat → ∃ t, exec (.sf n data) s = .next t ∧
      t = { s with rbuf := t.rbuf, rlen := 0, status := { s.status.failed .protocol with tstate := .failed } } ∧
      ∀ k, t.rbuf.read k = none)

/-- Rules R160 to R163 and R169: a First Frame as the first response sets `TLEN`, `COLL` and `RETRY`; the
Flow-Control profile sends the one Flow Control frame, the Auto-stream profile none; the exchange is complete if
the seed suffices, else reassembly goes on.  A First Frame without its length byte fails. -/
def Obligations.FirstFrameAsFirstResponse : Prop :=
  ∀ (s : State) (hi : BitVec 4) (data : List Byte), s.status.tstate = .awaitingResponse →
    (data = [] → ∃ t, exec (.ff hi data) s = .next t ∧
      t = { s with rbuf := t.rbuf, rlen := 0, status := { s.status.failed .protocol with tstate := .failed } } ∧
      ∀ k, t.rbuf.read k = none) ∧
    (∀ lo seed, data = lo :: seed → ∃ t, exec (.ff hi data) s = .next t ∧
      t.tlen.toNat = hi.toNat * 256 + lo.toNat ∧ t.coll = seed.take 5 ∧ t.retry = 0 ∧
      (s.csr.profile = 0 → t.rpid = 0x3C ∧
        let fc : List Byte := [s.csr.nad, 0x30, s.csr.fcBs, s.csr.fcStmin, 0xFF, 0xFF, 0xFF, 0xFF]
        t.trace = s.trace ++ sendEvents 0x3C (bsiReturned s) fc (checksum fc 0) s.csr.ifg) ∧
      (s.csr.profile = 1 → t.rpid = s.rpid ∧ t.trace = s.trace ∧ t.xcvr = s.xcvr) ∧
      (t.tlen.toNat ≤ (seed.take 5).length →
        t = { s with
          tlen := t.tlen, coll := t.coll, retry := 0, rpid := t.rpid, trace := t.trace, xcvr := t.xcvr,
          rbuf := t.rbuf, rlen := BitVec.ofNat 13 t.tlen.toNat,
          status := { s.status.ended with tstate := .done } } ∧
        ∀ k, t.rbuf.read k = (seed.take t.tlen.toNat)[k]?) ∧
      ((seed.take 5).length < t.tlen.toNat →
        t = { s with
          tlen := t.tlen, coll := t.coll, retry := 0, rpid := t.rpid, trace := t.trace, xcvr := t.xcvr,
          status := { s.status with tstate := .reassembling } }))

/-- Rules R165, R166 and R169: a Consecutive Frame with at least one data byte is appended, whatever its sequence
number, `RETRY` is cleared, and the exchange is complete as soon as `TLEN` bytes are there. -/
def Obligations.ConsecutiveFrameIsAppended : Prop :=
  ∀ (s : State) (seq : BitVec 4) (data : List Byte), s.status.tstate = .reassembling → data ≠ [] →
    let coll := s.coll ++ data.take 6
    (coll.length < s.tlen.toNat →
      exec (.cf seq data) s = .next { s with coll := coll, retry := 0 }) ∧
    (s.tlen.toNat ≤ coll.length → ∃ t, exec (.cf seq data) s = .next t ∧
      t = { s with
        coll := coll, retry := 0, rbuf := t.rbuf, rlen := BitVec.ofNat 13 s.tlen.toNat,
        status := { s.status.ended with tstate := .done } } ∧
      ∀ k, t.rbuf.read k = (coll.take s.tlen.toNat)[k]?)

/-- Rules R167 and R168 for a received frame: during reassembly a frame that is no usable Consecutive Frame counts
one retry and leaves `COLL` as it is; past `MAX_RETRIES` the exchange fails with the partial response. -/
def Obligations.UnusableFrameCountsARetry : Prop :=
  ∀ (s : State) (i : Instr), s.status.tstate = .reassembling → unusableFrame i = true →
    s.csr.maxRetries.toNat ≤ 30 → s.retry.toNat ≤ s.csr.maxRetries.toNat →
    (s.retry.toNat + 1 ≤ s.csr.maxRetries.toNat →
      exec i s = .next { s with retry := BitVec.ofNat 5 (s.retry.toNat + 1) }) ∧
    (s.csr.maxRetries.toNat < s.retry.toNat + 1 → ∃ t, exec i s = .next t ∧
      t = { s with
        retry := BitVec.ofNat 5 (s.retry.toNat + 1), rbuf := t.rbuf,
        rlen := BitVec.ofNat 13 (min s.coll.length s.tlen.toNat),
        status := { s.status.failed .retryExhausted with tstate := .failed } } ∧
      ∀ k, t.rbuf.read k = (s.coll.take s.tlen.toNat)[k]?)

/-- Rule R159: a Consecutive Frame, a Flow Control frame or a reserved type as the first response fails the exchange
with `PROTOCOL` and an empty result. -/
def Obligations.WrongTypeAsFirstResponseFails : Prop :=
  ∀ (s : State) (i : Instr), s.status.tstate = .awaitingResponse →
    (neverAccepted i = true ∨ ∃ seq data, i = .cf seq data) →
    ∃ t, exec i s = .next t ∧
      t = { s with rbuf := t.rbuf, rlen := 0, status := { s.status.failed .protocol with tstate := .failed } } ∧
      ∀ k, t.rbuf.read k = none

/-- Rule R156: an unusable initial poll is repeated while `ATT < RESP_POLLS`, and else fails the exchange with the
poll's own code. -/
def Obligations.UnusableInitialPoll : Prop :=
  ∀ (s : State) (rest : List HostAction), Exchanging .awaitingResponse rest s → s.att.toNat < s.csr.respPolls.toNat →
    let r := parse 0x7D (rxAnswer 11 (header 0x3D s)) .classic
    r.kind ≠ .none →
    ∃ t, step s = .next t ∧ t.att.toNat = s.att.toNat + 1 ∧
      (t.att.toNat < s.csr.respPolls.toNat →
        t = { s with
          host := rest, att := t.att, rpid := 0x7D, xcvr := t.xcvr, status := { s.status with ckok := false, rclass := .none },
          trace := s.trace ++ pollEvents 0x3D (bsiReturned s) s.csr.respTmo (rxAnswer 11 (header 0x3D s)) }) ∧
      (s.csr.respPolls.toNat ≤ t.att.toNat →
        t = { s with
          host := rest, att := t.att, rpid := 0x7D, xcvr := t.xcvr, rbuf := t.rbuf, rlen := 0,
          status := { (s.status.failed r.kind) with tstate := .failed, ckok := false, rclass := .none },
          trace := s.trace ++ pollEvents 0x3D (bsiReturned s) s.csr.respTmo (rxAnswer 11 (header 0x3D s)) } ∧
        ∀ k, t.rbuf.read k = none)

/-- Rule R157: a usable first response with no PCI byte or the wrong NAD fails the exchange with `PROTOCOL`, with no
further poll. -/
def Obligations.UnaddressedFirstResponseFails : Prop :=
  ∀ (s : State) (rest : List HostAction) (p : List Byte) (cls : RClass), Exchanging .awaitingResponse rest s →
    parse 0x7D (rxAnswer 11 (header 0x3D s)) .classic = { kind := .none, data := p, cls := cls } →
    (p.length < 2 ∨ p[0]? ≠ some s.csr.nad) →
    ∃ t, step s = .next t ∧
      t = { s with
        host := rest, att := BitVec.ofNat 8 (s.att.toNat + 1), rpid := 0x7D, xcvr := t.xcvr, rbuf := t.rbuf, rlen := 0,
        status := { (s.status.failed .protocol) with tstate := .failed, ckok := true, rclass := .classic },
        trace := s.trace ++ pollEvents 0x3D (bsiReturned s) s.csr.respTmo (rxAnswer 11 (header 0x3D s)) } ∧
      ∀ k, t.rbuf.read k = none

/-- Rules R164, R165, R167 and R168 for a poll: an answer from which no usable Consecutive Frame is parsed counts one
retry and leaves `COLL` as it is, whatever made it unusable; past `MAX_RETRIES` the exchange fails with the partial
response, else it goes on. -/
def Obligations.UnusablePollCountsARetry : Prop :=
  ∀ (s : State) (rest : List HostAction), Exchanging .reassembling rest s → s.csr.maxRetries.toNat ≤ 30 →
    s.retry.toNat ≤ s.csr.maxRetries.toNat → UnusableAnswer s.csr.nad (rxAnswer 11 (header 0x3D s)) →
    let r := parse 0x7D (rxAnswer 11 (header 0x3D s)) .classic
    let trace := s.trace ++ pollEvents 0x3D (bsiReturned s) s.csr.cfTmo (rxAnswer 11 (header 0x3D s))
    let status : Status := { s.status with ckok := decide (r.cls ≠ .none), rclass := r.cls }
    ∃ t, step s = .next t ∧ t.retry.toNat = s.retry.toNat + 1 ∧
      (t.retry.toNat ≤ s.csr.maxRetries.toNat →
        t = { s with
          host := rest, retry := t.retry, rpid := 0x7D, xcvr := t.xcvr, trace := trace, status := status }) ∧
      (s.csr.maxRetries.toNat < t.retry.toNat →
        t = { s with
          host := rest, retry := t.retry, rpid := 0x7D, xcvr := t.xcvr, trace := trace, rbuf := t.rbuf,
          rlen := BitVec.ofNat 13 (min s.coll.length s.tlen.toNat),
          status := { status.failed .retryExhausted with tstate := .failed } } ∧
        ∀ k, t.rbuf.read k = (s.coll.take s.tlen.toNat)[k]?)

/-- Rule R171: every exchange ends after a bounded number of polls, whatever the transceiver answers. -/
def Obligations.ExchangeEndsWithinItsPollBound : Prop :=
  ∀ (s : State), BlockInv s → OnlyRuns s → polling s = true →
    ∃ k t, k ≤ pollsLeft s ∧ k ≤ 127231 ∧ moves k s = some t ∧ t.status.busy = false ∧
      (t.status.tstate = .done ∨ t.status.tstate = .failed)

/-- Rule R174: a First Frame and then Consecutive Frames that carry the response in order, with fewer than
`MAX_RETRIES + 1` unusable polls in a row anywhere between, give exactly the response. -/
def Obligations.ReassemblyGivesTheResponse : Prop :=
  ∀ (s : State) (r first : List Byte) (hi : BitVec 4) (lo : Byte) (cls : RClass) (answer : List Byte)
    (more : List (List Byte)) (rest : List HostAction),
    Exchanging .awaitingResponse rest s → OnlyRuns s → s.csr.maxRetries.toNat ≤ 30 → 1 ≤ r.length → r.length ≤ 4095 →
    s.xcvr.rx = answer :: more →
    parse 0x7D (answer.take 11) .classic = { kind := .none, data := s.csr.nad :: pciByte 1 hi :: lo :: first, cls := cls } →
    hi.toNat * 256 + lo.toNat = r.length → first.length = 5 → first.take r.length = r.take 5 →
    CfAnswers s.csr.nad s.csr.maxRetries.toNat 0 (r.drop 5) more →
    ∃ t, moves (more.length + 1) s = some t ∧ t.status.busy = false ∧ t.status.done = true ∧
      t.status.tstate = .done ∧ t.rlen.toNat = r.length ∧ ∀ k, t.rbuf.read k = r[k]?

/-! ### Configuration and reset -/

/-- Rules R34, R59 and R193: CFG with a legal value writes that CSR and no other and is done; with an illegal value it
is refused and the CSR keeps its value. -/
def Obligations.CfgWritesOneRegisterOrIsRefused : Prop :=
  ∀ (s : State) (r : Csr) (lo hi : Byte), DbufHolds s [lo, hi] →
    encode (.cfg r) = .command (packWord 0xB r.index 0 0) ∧
    (valueLegal r (lo.toNat + hi.toNat * 256) → ∃ c : Csrs,
      exec (.cfg r) s = .next { s with csr := c, status := s.status.ended } ∧
      (csrRead r c).toNat = lo.toNat + hi.toNat * 256 ∧ ∀ q, q ≠ r → csrRead q c = csrRead q s.csr) ∧
    (¬valueLegal r (lo.toNat + hi.toNat * 256) →
      exec (.cfg r) s = .next { s with status := s.status.failed .refused })

/-- Rules R194 and R240 to R242: the reset word is accepted whether or not the block is busy, at the step boundary,
and puts every piece of block state at its reset value; the port trace is kept. -/
def Obligations.ResetCommandResets : Prop :=
  ∀ (s : State) (rest : List HostAction), s.host = .issue 0xC000 :: rest →
    ∃ t, step s = .next t ∧ exec .rst { s with host := rest } = .next t ∧
      t.status.word = 0 ∧ t.status.tstate = .idle ∧ t.cur = 0x0000 ∧ t.rbyte = 0 ∧ t.rpid = 0 ∧ t.rlen = 0 ∧
      (∀ k, t.rbuf.read k = none) ∧ (∀ k, t.dbuf.read k = none) ∧
      t.csr = {
        nad := Config.nadDefault, profile := Config.profileDefault, maxRetries := Config.maxRetriesDefault,
        fcBs := Config.fcBsDefault, fcStmin := Config.fcStminDefault, respTmo := Config.respTmoDefault,
        cfTmo := Config.cfTmoDefault, appTmo := Config.appTmoDefault, respPolls := 1, ifg := Config.ifgDefault } ∧
      20 ≤ t.csr.maxRetries.toNat ∧ t.csr.maxRetries.toNat ≤ 30 ∧
      t.tlen = 0 ∧ t.coll = [] ∧ t.retry = 0 ∧ t.att = 0 ∧ t.trace = s.trace ∧ t.host = rest ∧ t.xcvr = s.xcvr

/-- Rule R38: a reserved CSR index reads as 0, and a CFG that names one is refused. -/
def Obligations.ReservedCsrIndices : Prop :=
  ∀ (s : State) (i : BitVec 6), 0x0A ≤ i.toNat →
    readPort (.csr i) s = some 0 ∧
    ∀ rest, s.status.busy = false → s.host = .issue (packWord 0xB i 0 0) :: rest →
      ∃ t, step s = .next t ∧ t.status.fail = true ∧ t.status.fkind = .refused ∧ t.csr = s.csr

/-! ### The status register and the whole machine -/

/-- Rules R24 and R28: the layout of `STATUS` as the host reads it. -/
def Obligations.StatusWordLayout : Prop :=
  ∀ (s : State), ∃ w : Word, readPort .status s = some w ∧
    w.getLsbD 0 = s.status.busy ∧ w.getLsbD 1 = s.status.done ∧ w.getLsbD 2 = s.status.fail ∧
    (w.extractLsb' 3 4).toNat = (match s.status.fkind with
      | .none => 0 | .timeout => 1 | .noPid => 2 | .short => 3 | .checksum => 4 | .protocol => 5
      | .retryExhausted => 6 | .refused => 7) ∧
    w.getLsbD 7 = s.status.ckok ∧
    (w.extractLsb' 8 2).toNat = (match s.status.rclass with | .none => 0 | .classic => 1 | .enhanced => 2) ∧
    w.getLsbD 10 = s.status.ovr ∧
    (w.extractLsb' 11 3).toNat = (match s.status.tstate with
      | .idle => 0 | .awaitingResponse => 1 | .singleFrameDone => 2 | .reassembling => 3 | .done => 4 | .failed => 5) ∧
    w.extractLsb' 14 2 = 0

/-- The invariant holds at power-on reset. -/
def Obligations.ResetStateIsSound : Prop := BlockInv State.reset

/-- The invariant is kept by every move, from every state that meets it. -/
def Obligations.EveryMoveKeepsTheBlockSound : Prop :=
  ∀ (s t : State), BlockInv s → step s = .next t → BlockInv t

/-- Rules R23, R138 and R217: from a sound state the machine stops only where a word is dispatched whose operands
were not written; no instruction is refused and no body stops. -/
def Obligations.OnlyUndefinedOperandsStop : Prop :=
  ∀ (s : State), BlockInv s →
    (∃ t, step s = .next t) ∨
    (step s = .fault .undefOperand ∧ s.status.busy = false ∧
      ∃ w rest, s.host = .issue w :: rest ∧ wordLegal w = true ∧ DbufLacks s (operandsOfWord w))

/-- Rule R35: a CSR changes only by the CFG command in progress or by the reset word. -/
def Obligations.CsrsChangeOnlyByCfgAndReset : Prop :=
  ∀ (s t : State), step s = .next t → t.csr ≠ s.csr →
    (∃ r, s.status.busy = true ∧ decodeCommand s.cur = .ok (.cfg r)) ∨
    (t.csr = Csrs.reset ∧ ((∃ rest, s.host = .issue 0xC000 :: rest) ∨ s.cur = 0xC000))

/-- Rule R29: `OVR` is set where a word other than the reset word arrives while busy, becomes 1 nowhere else, and
becomes 0 only by reset. -/
def Obligations.OverrunIsSticky : Prop :=
  ∀ (s t : State), step s = .next t →
    (∀ w rest, s.status.busy = true → s.host = .issue w :: rest → w ≠ 0xC000 → t.status.ovr = true) ∧
    (s.status.ovr = false → t.status.ovr = true →
      s.status.busy = true ∧ ∃ w rest, s.host = .issue w :: rest ∧ w ≠ 0xC000) ∧
    (s.status.ovr = true → t.status.ovr = false → (∃ rest, s.host = .issue 0xC000 :: rest) ∨ s.cur = 0xC000)

/-- Rules R23, R30, R31, R33, R39, R40 and R41 for the instructions that do not write a register: no instruction but RST
changes `DBUF`; `RBYTE`, `RPID`, `RBUF` with `RLEN`, the transport registers and `TSTATE` change only by the
instructions the rules list; `CUR`, `OVR` and the host's queue by none. -/
def Obligations.EachRegisterHasItsWriters : Prop :=
  ∀ (i : Instr) (s t : State), exec i s = .next t → i ≠ .rst →
    (∀ a, t.dbuf.read a = s.dbuf.read a) ∧ t.cur = s.cur ∧ t.host = s.host ∧ t.status.ovr = s.status.ovr ∧
    ((∀ id, i ≠ .pid id) → (∀ len, i ≠ .cksc len) → (∀ id len, i ≠ .ckse id len) → (∀ id len, i ≠ .fencC id len) →
      (∀ id len, i ≠ .fencE id len) → t.rbyte = s.rbyte) ∧
    ((∃ len, i = .cksc len) ∨ (∃ r, i = .cfg r) → t.rpid = s.rpid) ∧
    ((∃ id, i = .pid id) ∨ (∃ len, i = .cksc len) ∨ (∃ id len, i = .ckse id len) ∨ (∃ id, i = .hdr id) ∨
      (∃ id len, i = .sendC id len) ∨ (∃ id len, i = .sendE id len) ∨ (∃ r, i = .cfg r) →
      t.rlen = s.rlen ∧ ∀ a, t.rbuf.read a = s.rbuf.read a) ∧
    ((∀ len, i ≠ .dreq len) → isFrame i = false →
      t.status.tstate = s.status.tstate ∧ t.tlen = s.tlen ∧ t.coll = s.coll ∧ t.retry = s.retry ∧ t.att = s.att) ∧
    ((∀ r, i ≠ .cfg r) → t.csr = s.csr)

/-- Rule R212, row by row: how each command can end after dispatch.  DREQ's request step ends nothing; its polls end
the exchange with the codes of its row, the partial result's `RETRY_EXHAUSTED` only during reassembly (rule R214). -/
def Obligations.FailureCodesOfEachCommand : Prop :=
  (∀ (i : Instr) (s t : State), exec i s = .next t →
    ((∃ id, i = .pid id) ∨ (∃ len, i = .cksc len) ∨ (∃ id len, i = .ckse id len) ∨ (∃ id len, i = .fencC id len) ∨
      (∃ id len, i = .fencE id len) ∨ (∃ id, i = .hdr id) ∨ (∃ id len, i = .sendC id len) ∨
      (∃ id len, i = .sendE id len) → t.status.done = true ∧ t.status.fail = false) ∧
    ((∃ id len, i = .fdecC id len) ∨ (∃ id len, i = .fdecE id len) ∨ (∃ id len, i = .fdecCE id len) →
      t.status.fail = true → t.status.fkind = .checksum) ∧
    ((∃ id len, i = .scanC id len) ∨ (∃ id len, i = .scanE id len) ∨ (∃ id len, i = .scanCE id len) ∨
      (∃ id, i = .recvC id) ∨ (∃ id, i = .recvE id) ∨ (∃ id, i = .recvCE id) →
      t.status.fail = true → t.status.fkind ∈ [.timeout, .noPid, .short, .protocol, .checksum]) ∧
    ((∃ r, i = .cfg r) → t.status.fail = true → t.status.fkind = .refused) ∧
    (i = .rst → t.status.done = false ∧ t.status.fail = false) ∧
    ((∃ len, i = .dreq len) → t.status.busy = s.status.busy ∧ t.status.fail = s.status.fail ∧
      t.status.fkind = s.status.fkind)) ∧
  (∀ (ts : TState) (rest : List HostAction) (s t : State), Exchanging ts rest s → s.status.fail = false →
    step s = .next t → t.status.fail = true →
    (ts = .awaitingResponse → t.status.fkind ∈ [.timeout, .noPid, .short, .protocol, .checksum]) ∧
    (ts = .reassembling → t.status.fkind = .retryExhausted))

/-- Rule R45: the port trace only grows, and reset does not erase it. -/
def Obligations.TraceOnlyGrows : Prop :=
  ∀ (s t : State), step s = .next t → ∃ es, t.trace = s.trace ++ es

/-- Rule R226: the value `X.bsi` returns changes nothing but its own record in the trace. -/
def Obligations.ReturnedPidIsIgnored : Prop :=
  ∀ (s s' : State), SameButReturned s s' →
    (∀ t, step s = .next t → ∃ t', step s' = .next t' ∧ SameButReturned t t') ∧
    (∀ f, step s = .fault f → step s' = .fault f)
end

