-- ==== Sys2Proof/Laws/Decode.lean ====
section
/-! SUPPORT. The fields of a packed word, and what each decoder check lets through. -/

namespace Sys2Proof

theorem packWord_toNat (op : BitVec 4) (id : BitVec 6) (kind : BitVec 2) (len : BitVec 4) :
    (packWord op id kind len).toNat = op.toNat * 4096 + id.toNat * 64 + kind.toNat * 16 + len.toNat := by
  have h1 := id.isLt
  have h2 := kind.isLt
  have h3 := len.isLt
  simp only [packWord, BitVec.toNat_append]
  rw [← Nat.shiftLeft_add_eq_or_of_lt h3, ← Nat.shiftLeft_add_eq_or_of_lt h2, ← Nat.shiftLeft_add_eq_or_of_lt h1]
  simp only [Nat.shiftLeft_eq]
  omega

theorem fieldOp_toNat (w : Word) : (fieldOp w).toNat = w.toNat / 4096 := by
  have := w.isLt
  simp only [fieldOp, BitVec.extractLsb'_toNat, Nat.shiftRight_eq_div_pow]
  omega

theorem fieldId_toNat (w : Word) : (fieldId w).toNat = w.toNat / 64 % 64 := by
  simp only [fieldId, BitVec.extractLsb'_toNat, Nat.shiftRight_eq_div_pow]

theorem fieldKind_toNat (w : Word) : (fieldKind w).toNat = w.toNat / 16 % 4 := by
  simp only [fieldKind, BitVec.extractLsb'_toNat, Nat.shiftRight_eq_div_pow]

theorem fieldLen_toNat (w : Word) : (fieldLen w).toNat = w.toNat % 16 := by
  simp only [fieldLen, BitVec.extractLsb'_toNat, Nat.shiftRight_eq_div_pow]
  omega

@[simp] theorem fieldOp_packWord (op : BitVec 4) (id : BitVec 6) (kind : BitVec 2) (len : BitVec 4) :
    fieldOp (packWord op id kind len) = op := by
  apply BitVec.eq_of_toNat_eq
  have h1 := id.isLt
  have h2 := kind.isLt
  have h3 := len.isLt
  rw [fieldOp_toNat, packWord_toNat]; omega

@[simp] theorem fieldId_packWord (op : BitVec 4) (id : BitVec 6) (kind : BitVec 2) (len : BitVec 4) :
    fieldId (packWord op id kind len) = id := by
  apply BitVec.eq_of_toNat_eq
  have h1 := id.isLt
  have h2 := kind.isLt
  have h3 := len.isLt
  rw [fieldId_toNat, packWord_toNat]; omega

@[simp] theorem fieldKind_packWord (op : BitVec 4) (id : BitVec 6) (kind : BitVec 2) (len : BitVec 4) :
    fieldKind (packWord op id kind len) = kind := by
  apply BitVec.eq_of_toNat_eq
  have h2 := kind.isLt
  have h3 := len.isLt
  rw [fieldKind_toNat, packWord_toNat]; omega

@[simp] theorem fieldLen_packWord (op : BitVec 4) (id : BitVec 6) (kind : BitVec 2) (len : BitVec 4) :
    fieldLen (packWord op id kind len) = len := by
  apply BitVec.eq_of_toNat_eq
  have h3 := len.isLt
  rw [fieldLen_toNat, packWord_toNat]; omega

/-- A word is its fields. -/
theorem packWord_fields (w : Word) : packWord (fieldOp w) (fieldId w) (fieldKind w) (fieldLen w) = w := by
  apply BitVec.eq_of_toNat_eq
  have := w.isLt
  rw [packWord_toNat, fieldOp_toNat, fieldId_toNat, fieldKind_toNat, fieldLen_toNat]; omega

theorem pciByte_toNat (t v : BitVec 4) : (pciByte t v).toNat = t.toNat * 16 + v.toNat := by
  have h := v.isLt
  simp only [pciByte, BitVec.toNat_append]
  rw [← Nat.shiftLeft_add_eq_or_of_lt h]
  simp only [Nat.shiftLeft_eq, Nat.reducePow]

@[simp] theorem hiNibble_pciByte (t v : BitVec 4) : hiNibble (pciByte t v) = t := by
  apply BitVec.eq_of_toNat_eq
  have h := v.isLt
  have h2 := t.isLt
  simp only [hiNibble, BitVec.extractLsb'_toNat, Nat.shiftRight_eq_div_pow, pciByte_toNat]; omega

@[simp] theorem loNibble_pciByte (t v : BitVec 4) : loNibble (pciByte t v) = v := by
  apply BitVec.eq_of_toNat_eq
  have h := v.isLt
  simp only [loNibble, BitVec.extractLsb'_toNat, Nat.shiftRight_eq_div_pow, pciByte_toNat]; omega

/-- A byte is its nibbles. -/
theorem pciByte_nibbles (b : Byte) : pciByte (hiNibble b) (loNibble b) = b := by
  apply BitVec.eq_of_toNat_eq
  have := b.isLt
  simp only [pciByte_toNat, hiNibble, loNibble, BitVec.extractLsb'_toNat, Nat.shiftRight_eq_div_pow]; omega

@[simp] theorem csrOfIndex_index (r : Csr) : csrOfIndex r.index = some r := by cases r <;> rfl

theorem csrOfIndex_eq_some {i : BitVec 6} {r : Csr} (h : csrOfIndex i = some r) : r.index = i := by
  apply BitVec.eq_of_toNat_eq
  unfold csrOfIndex at h
  split at h <;> cases h <;> (rename_i hi; rw [hi]; rfl)

/-! ### The checks -/

@[simp] theorem demand_true (r : Reject) (k : Except Reject Instr) : demand true r k = k := rfl
@[simp] theorem demand_false (r : Reject) (k : Except Reject Instr) : demand false r k = .error r := rfl

theorem demand_eq_ok {c : Bool} {r : Reject} {k : Except Reject Instr} {i : Instr} :
    demand c r k = .ok i ↔ c = true ∧ k = .ok i := by cases c <;> simp

@[simp] theorem noId_eq_ok {id : BitVec 6} {k : Except Reject Instr} {i : Instr} :
    noId id k = .ok i ↔ id = 0 ∧ k = .ok i := by simp [noId, demand_eq_ok]

@[simp] theorem noKind_eq_ok {kind : BitVec 2} {k : Except Reject Instr} {i : Instr} :
    noKind kind k = .ok i ↔ kind = 0 ∧ k = .ok i := by simp [noKind, demand_eq_ok]

@[simp] theorem lenIn_eq_ok {lo hi : Nat} {len : BitVec 4} {k : Except Reject Instr} {i : Instr} :
    lenIn lo hi len k = .ok i ↔ (lo ≤ len.toNat ∧ len.toNat ≤ hi) ∧ k = .ok i := by simp [lenIn, demand_eq_ok]

@[simp] theorem txKind_eq_ok {kind : BitVec 2} {c e : Except Reject Instr} {i : Instr} :
    txKind kind c e = .ok i ↔ kind = 0 ∧ c = .ok i ∨ kind = 1 ∧ e = .ok i := by
  have : kind = 0 ∨ kind = 1 ∨ kind = 2 ∨ kind = 3 := by revert kind; decide
  rcases this with h | h | h | h <;> subst h <;> simp [txKind]

@[simp] theorem rxKind_eq_ok {kind : BitVec 2} {c e ce : Except Reject Instr} {i : Instr} :
    rxKind kind c e ce = .ok i ↔ kind = 0 ∧ c = .ok i ∨ kind = 1 ∧ e = .ok i ∨ kind = 2 ∧ ce = .ok i := by
  have : kind = 0 ∨ kind = 1 ∨ kind = 2 ∨ kind = 3 := by revert kind; decide
  rcases this with h | h | h | h <;> subst h <;> simp [rxKind]

theorem decodeResponse_pciByte (t v : BitVec 4) {data : List Byte} (h : data.length ≤ frameDataMax) :
    decodeResponse (pciByte t v :: data) = .ok (frameOfType t v data) := by simp [decodeResponse, h]

/-- What a decoded frame is (rule R87). -/
theorem decodeResponse_eq_ok {bytes : List Byte} {i : Instr} (h : decodeResponse bytes = .ok i) :
    ∃ t v data, bytes = pciByte t v :: data ∧ data.length ≤ frameDataMax ∧ i = frameOfType t v data := by
  cases bytes with
  | nil => cases h
  | cons b data =>
    simp only [decodeResponse] at h
    split at h
    · cases h; exact ⟨_, _, data, by rw [pciByte_nibbles], ‹_›, rfl⟩
    · cases h

end Sys2Proof
end

