-- ==== Sys2Proof/Laws/State.lean ====
section
/-! SUPPORT. One lemma per field per state operation, so that no proof unfolds a record update. -/

namespace Sys2Proof.Machine

/-! ### startCommand -/

@[simp] theorem startCommand_dbuf (w : Word) (s : State) : (startCommand w s).dbuf = s.dbuf := rfl
@[simp] theorem startCommand_rbyte (w : Word) (s : State) : (startCommand w s).rbyte = s.rbyte := rfl
@[simp] theorem startCommand_rpid (w : Word) (s : State) : (startCommand w s).rpid = s.rpid := rfl
@[simp] theorem startCommand_rlen (w : Word) (s : State) : (startCommand w s).rlen = s.rlen := rfl
@[simp] theorem startCommand_rbuf (w : Word) (s : State) : (startCommand w s).rbuf = s.rbuf := rfl
@[simp] theorem startCommand_csr (w : Word) (s : State) : (startCommand w s).csr = s.csr := rfl
@[simp] theorem startCommand_tlen (w : Word) (s : State) : (startCommand w s).tlen = s.tlen := rfl
@[simp] theorem startCommand_coll (w : Word) (s : State) : (startCommand w s).coll = s.coll := rfl
@[simp] theorem startCommand_retry (w : Word) (s : State) : (startCommand w s).retry = s.retry := rfl
@[simp] theorem startCommand_att (w : Word) (s : State) : (startCommand w s).att = s.att := rfl
@[simp] theorem startCommand_trace (w : Word) (s : State) : (startCommand w s).trace = s.trace := rfl
@[simp] theorem startCommand_host (w : Word) (s : State) : (startCommand w s).host = s.host := rfl
@[simp] theorem startCommand_xcvr (w : Word) (s : State) : (startCommand w s).xcvr = s.xcvr := rfl
@[simp] theorem startCommand_cur (w : Word) (s : State) : (startCommand w s).cur = w := rfl
@[simp] theorem startCommand_status (w : Word) (s : State) : (startCommand w s).status =
    { s.status with busy := true, done := false, fail := false, fkind := .none, ckok := false, rclass := .none } := rfl

/-! ### finishOk -/

@[simp] theorem finishOk_cur (s : State) : (finishOk s).cur = s.cur := rfl
@[simp] theorem finishOk_dbuf (s : State) : (finishOk s).dbuf = s.dbuf := rfl
@[simp] theorem finishOk_rbyte (s : State) : (finishOk s).rbyte = s.rbyte := rfl
@[simp] theorem finishOk_rpid (s : State) : (finishOk s).rpid = s.rpid := rfl
@[simp] theorem finishOk_rlen (s : State) : (finishOk s).rlen = s.rlen := rfl
@[simp] theorem finishOk_rbuf (s : State) : (finishOk s).rbuf = s.rbuf := rfl
@[simp] theorem finishOk_csr (s : State) : (finishOk s).csr = s.csr := rfl
@[simp] theorem finishOk_tlen (s : State) : (finishOk s).tlen = s.tlen := rfl
@[simp] theorem finishOk_coll (s : State) : (finishOk s).coll = s.coll := rfl
@[simp] theorem finishOk_retry (s : State) : (finishOk s).retry = s.retry := rfl
@[simp] theorem finishOk_att (s : State) : (finishOk s).att = s.att := rfl
@[simp] theorem finishOk_trace (s : State) : (finishOk s).trace = s.trace := rfl
@[simp] theorem finishOk_host (s : State) : (finishOk s).host = s.host := rfl
@[simp] theorem finishOk_xcvr (s : State) : (finishOk s).xcvr = s.xcvr := rfl
@[simp] theorem finishOk_status (s : State) : (finishOk s).status =
    { s.status with done := true, fail := false, fkind := .none, busy := false } := rfl

/-! ### finishFail -/

@[simp] theorem finishFail_cur (k : FKind) (s : State) : (finishFail k s).cur = s.cur := rfl
@[simp] theorem finishFail_dbuf (k : FKind) (s : State) : (finishFail k s).dbuf = s.dbuf := rfl
@[simp] theorem finishFail_rbyte (k : FKind) (s : State) : (finishFail k s).rbyte = s.rbyte := rfl
@[simp] theorem finishFail_rpid (k : FKind) (s : State) : (finishFail k s).rpid = s.rpid := rfl
@[simp] theorem finishFail_rlen (k : FKind) (s : State) : (finishFail k s).rlen = s.rlen := rfl
@[simp] theorem finishFail_rbuf (k : FKind) (s : State) : (finishFail k s).rbuf = s.rbuf := rfl
@[simp] theorem finishFail_csr (k : FKind) (s : State) : (finishFail k s).csr = s.csr := rfl
@[simp] theorem finishFail_tlen (k : FKind) (s : State) : (finishFail k s).tlen = s.tlen := rfl
@[simp] theorem finishFail_coll (k : FKind) (s : State) : (finishFail k s).coll = s.coll := rfl
@[simp] theorem finishFail_retry (k : FKind) (s : State) : (finishFail k s).retry = s.retry := rfl
@[simp] theorem finishFail_att (k : FKind) (s : State) : (finishFail k s).att = s.att := rfl
@[simp] theorem finishFail_trace (k : FKind) (s : State) : (finishFail k s).trace = s.trace := rfl
@[simp] theorem finishFail_host (k : FKind) (s : State) : (finishFail k s).host = s.host := rfl
@[simp] theorem finishFail_xcvr (k : FKind) (s : State) : (finishFail k s).xcvr = s.xcvr := rfl
@[simp] theorem finishFail_status (k : FKind) (s : State) : (finishFail k s).status =
    { s.status with done := false, fail := true, fkind := k, busy := false } := rfl

/-! ### refuse -/

@[simp] theorem refuse_cur (s : State) : (refuse s).cur = s.cur := rfl
@[simp] theorem refuse_dbuf (s : State) : (refuse s).dbuf = s.dbuf := rfl
@[simp] theorem refuse_rbyte (s : State) : (refuse s).rbyte = s.rbyte := rfl
@[simp] theorem refuse_rpid (s : State) : (refuse s).rpid = s.rpid := rfl
@[simp] theorem refuse_rlen (s : State) : (refuse s).rlen = s.rlen := rfl
@[simp] theorem refuse_rbuf (s : State) : (refuse s).rbuf = s.rbuf := rfl
@[simp] theorem refuse_csr (s : State) : (refuse s).csr = s.csr := rfl
@[simp] theorem refuse_tlen (s : State) : (refuse s).tlen = s.tlen := rfl
@[simp] theorem refuse_coll (s : State) : (refuse s).coll = s.coll := rfl
@[simp] theorem refuse_retry (s : State) : (refuse s).retry = s.retry := rfl
@[simp] theorem refuse_att (s : State) : (refuse s).att = s.att := rfl
@[simp] theorem refuse_trace (s : State) : (refuse s).trace = s.trace := rfl
@[simp] theorem refuse_host (s : State) : (refuse s).host = s.host := rfl
@[simp] theorem refuse_xcvr (s : State) : (refuse s).xcvr = s.xcvr := rfl
@[simp] theorem refuse_status (s : State) : (refuse s).status =
    { s.status with done := false, fail := true, fkind := .refused, busy := false } := rfl

/-! ### finishWith -/

@[simp] theorem finishWith_cur (k : FKind) (s : State) : (finishWith k s).cur = s.cur := by cases k <;> rfl
@[simp] theorem finishWith_dbuf (k : FKind) (s : State) : (finishWith k s).dbuf = s.dbuf := by cases k <;> rfl
@[simp] theorem finishWith_rbyte (k : FKind) (s : State) : (finishWith k s).rbyte = s.rbyte := by cases k <;> rfl
@[simp] theorem finishWith_rpid (k : FKind) (s : State) : (finishWith k s).rpid = s.rpid := by cases k <;> rfl
@[simp] theorem finishWith_rlen (k : FKind) (s : State) : (finishWith k s).rlen = s.rlen := by cases k <;> rfl
@[simp] theorem finishWith_rbuf (k : FKind) (s : State) : (finishWith k s).rbuf = s.rbuf := by cases k <;> rfl
@[simp] theorem finishWith_csr (k : FKind) (s : State) : (finishWith k s).csr = s.csr := by cases k <;> rfl
@[simp] theorem finishWith_tlen (k : FKind) (s : State) : (finishWith k s).tlen = s.tlen := by cases k <;> rfl
@[simp] theorem finishWith_coll (k : FKind) (s : State) : (finishWith k s).coll = s.coll := by cases k <;> rfl
@[simp] theorem finishWith_retry (k : FKind) (s : State) : (finishWith k s).retry = s.retry := by cases k <;> rfl
@[simp] theorem finishWith_att (k : FKind) (s : State) : (finishWith k s).att = s.att := by cases k <;> rfl
@[simp] theorem finishWith_trace (k : FKind) (s : State) : (finishWith k s).trace = s.trace := by cases k <;> rfl
@[simp] theorem finishWith_host (k : FKind) (s : State) : (finishWith k s).host = s.host := by cases k <;> rfl
@[simp] theorem finishWith_xcvr (k : FKind) (s : State) : (finishWith k s).xcvr = s.xcvr := by cases k <;> rfl
@[simp] theorem finishWith_status (k : FKind) (s : State) : (finishWith k s).status =
    { s.status with done := k == .none, fail := !(k == .none), fkind := k, busy := false } := by cases k <;> rfl

/-! ### setCheck -/

@[simp] theorem setCheck_cur (ok : Bool) (cls : RClass) (s : State) : (setCheck ok cls s).cur = s.cur := rfl
@[simp] theorem setCheck_dbuf (ok : Bool) (cls : RClass) (s : State) : (setCheck ok cls s).dbuf = s.dbuf := rfl
@[simp] theorem setCheck_rbyte (ok : Bool) (cls : RClass) (s : State) : (setCheck ok cls s).rbyte = s.rbyte := rfl
@[simp] theorem setCheck_rpid (ok : Bool) (cls : RClass) (s : State) : (setCheck ok cls s).rpid = s.rpid := rfl
@[simp] theorem setCheck_rlen (ok : Bool) (cls : RClass) (s : State) : (setCheck ok cls s).rlen = s.rlen := rfl
@[simp] theorem setCheck_rbuf (ok : Bool) (cls : RClass) (s : State) : (setCheck ok cls s).rbuf = s.rbuf := rfl
@[simp] theorem setCheck_csr (ok : Bool) (cls : RClass) (s : State) : (setCheck ok cls s).csr = s.csr := rfl
@[simp] theorem setCheck_tlen (ok : Bool) (cls : RClass) (s : State) : (setCheck ok cls s).tlen = s.tlen := rfl
@[simp] theorem setCheck_coll (ok : Bool) (cls : RClass) (s : State) : (setCheck ok cls s).coll = s.coll := rfl
@[simp] theorem setCheck_retry (ok : Bool) (cls : RClass) (s : State) : (setCheck ok cls s).retry = s.retry := rfl
@[simp] theorem setCheck_att (ok : Bool) (cls : RClass) (s : State) : (setCheck ok cls s).att = s.att := rfl
@[simp] theorem setCheck_trace (ok : Bool) (cls : RClass) (s : State) : (setCheck ok cls s).trace = s.trace := rfl
@[simp] theorem setCheck_host (ok : Bool) (cls : RClass) (s : State) : (setCheck ok cls s).host = s.host := rfl
@[simp] theorem setCheck_xcvr (ok : Bool) (cls : RClass) (s : State) : (setCheck ok cls s).xcvr = s.xcvr := rfl
@[simp] theorem setCheck_status (ok : Bool) (cls : RClass) (s : State) : (setCheck ok cls s).status =
    { s.status with ckok := ok, rclass := cls } := rfl

/-! ### setTState -/

@[simp] theorem setTState_cur (t : TState) (s : State) : (setTState t s).cur = s.cur := rfl
@[simp] theorem setTState_dbuf (t : TState) (s : State) : (setTState t s).dbuf = s.dbuf := rfl
@[simp] theorem setTState_rbyte (t : TState) (s : State) : (setTState t s).rbyte = s.rbyte := rfl
@[simp] theorem setTState_rpid (t : TState) (s : State) : (setTState t s).rpid = s.rpid := rfl
@[simp] theorem setTState_rlen (t : TState) (s : State) : (setTState t s).rlen = s.rlen := rfl
@[simp] theorem setTState_rbuf (t : TState) (s : State) : (setTState t s).rbuf = s.rbuf := rfl
@[simp] theorem setTState_csr (t : TState) (s : State) : (setTState t s).csr = s.csr := rfl
@[simp] theorem setTState_tlen (t : TState) (s : State) : (setTState t s).tlen = s.tlen := rfl
@[simp] theorem setTState_coll (t : TState) (s : State) : (setTState t s).coll = s.coll := rfl
@[simp] theorem setTState_retry (t : TState) (s : State) : (setTState t s).retry = s.retry := rfl
@[simp] theorem setTState_att (t : TState) (s : State) : (setTState t s).att = s.att := rfl
@[simp] theorem setTState_trace (t : TState) (s : State) : (setTState t s).trace = s.trace := rfl
@[simp] theorem setTState_host (t : TState) (s : State) : (setTState t s).host = s.host := rfl
@[simp] theorem setTState_xcvr (t : TState) (s : State) : (setTState t s).xcvr = s.xcvr := rfl
@[simp] theorem setTState_status (t : TState) (s : State) : (setTState t s).status =
    { s.status with tstate := t } := rfl

/-! ### setOverrun -/

@[simp] theorem setOverrun_cur (s : State) : (setOverrun s).cur = s.cur := rfl
@[simp] theorem setOverrun_dbuf (s : State) : (setOverrun s).dbuf = s.dbuf := rfl
@[simp] theorem setOverrun_rbyte (s : State) : (setOverrun s).rbyte = s.rbyte := rfl
@[simp] theorem setOverrun_rpid (s : State) : (setOverrun s).rpid = s.rpid := rfl
@[simp] theorem setOverrun_rlen (s : State) : (setOverrun s).rlen = s.rlen := rfl
@[simp] theorem setOverrun_rbuf (s : State) : (setOverrun s).rbuf = s.rbuf := rfl
@[simp] theorem setOverrun_csr (s : State) : (setOverrun s).csr = s.csr := rfl
@[simp] theorem setOverrun_tlen (s : State) : (setOverrun s).tlen = s.tlen := rfl
@[simp] theorem setOverrun_coll (s : State) : (setOverrun s).coll = s.coll := rfl
@[simp] theorem setOverrun_retry (s : State) : (setOverrun s).retry = s.retry := rfl
@[simp] theorem setOverrun_att (s : State) : (setOverrun s).att = s.att := rfl
@[simp] theorem setOverrun_trace (s : State) : (setOverrun s).trace = s.trace := rfl
@[simp] theorem setOverrun_host (s : State) : (setOverrun s).host = s.host := rfl
@[simp] theorem setOverrun_xcvr (s : State) : (setOverrun s).xcvr = s.xcvr := rfl
@[simp] theorem setOverrun_status (s : State) : (setOverrun s).status = { s.status with ovr := true } := rfl

/-! ### setResult -/

@[simp] theorem setResult_cur (data : List Byte) (s : State) : (setResult data s).cur = s.cur := rfl
@[simp] theorem setResult_dbuf (data : List Byte) (s : State) : (setResult data s).dbuf = s.dbuf := rfl
@[simp] theorem setResult_status (data : List Byte) (s : State) : (setResult data s).status = s.status := rfl
@[simp] theorem setResult_rbyte (data : List Byte) (s : State) : (setResult data s).rbyte = s.rbyte := rfl
@[simp] theorem setResult_rpid (data : List Byte) (s : State) : (setResult data s).rpid = s.rpid := rfl
@[simp] theorem setResult_csr (data : List Byte) (s : State) : (setResult data s).csr = s.csr := rfl
@[simp] theorem setResult_tlen (data : List Byte) (s : State) : (setResult data s).tlen = s.tlen := rfl
@[simp] theorem setResult_coll (data : List Byte) (s : State) : (setResult data s).coll = s.coll := rfl
@[simp] theorem setResult_retry (data : List Byte) (s : State) : (setResult data s).retry = s.retry := rfl
@[simp] theorem setResult_att (data : List Byte) (s : State) : (setResult data s).att = s.att := rfl
@[simp] theorem setResult_trace (data : List Byte) (s : State) : (setResult data s).trace = s.trace := rfl
@[simp] theorem setResult_host (data : List Byte) (s : State) : (setResult data s).host = s.host := rfl
@[simp] theorem setResult_xcvr (data : List Byte) (s : State) : (setResult data s).xcvr = s.xcvr := rfl
@[simp] theorem setResult_rbuf (data : List Byte) (s : State) : (setResult data s).rbuf = Memory.ofBytesAt 0 data := rfl
@[simp] theorem setResult_rlen (data : List Byte) (s : State) : (setResult data s).rlen = BitVec.ofNat 13 data.length := rfl

/-! ### emit -/

@[simp] theorem emit_cur (es : List Event) (s : State) : (emit es s).cur = s.cur := rfl
@[simp] theorem emit_dbuf (es : List Event) (s : State) : (emit es s).dbuf = s.dbuf := rfl
@[simp] theorem emit_status (es : List Event) (s : State) : (emit es s).status = s.status := rfl
@[simp] theorem emit_rbyte (es : List Event) (s : State) : (emit es s).rbyte = s.rbyte := rfl
@[simp] theorem emit_rpid (es : List Event) (s : State) : (emit es s).rpid = s.rpid := rfl
@[simp] theorem emit_rlen (es : List Event) (s : State) : (emit es s).rlen = s.rlen := rfl
@[simp] theorem emit_rbuf (es : List Event) (s : State) : (emit es s).rbuf = s.rbuf := rfl
@[simp] theorem emit_csr (es : List Event) (s : State) : (emit es s).csr = s.csr := rfl
@[simp] theorem emit_tlen (es : List Event) (s : State) : (emit es s).tlen = s.tlen := rfl
@[simp] theorem emit_coll (es : List Event) (s : State) : (emit es s).coll = s.coll := rfl
@[simp] theorem emit_retry (es : List Event) (s : State) : (emit es s).retry = s.retry := rfl
@[simp] theorem emit_att (es : List Event) (s : State) : (emit es s).att = s.att := rfl
@[simp] theorem emit_host (es : List Event) (s : State) : (emit es s).host = s.host := rfl
@[simp] theorem emit_xcvr (es : List Event) (s : State) : (emit es s).xcvr = s.xcvr := rfl
@[simp] theorem emit_trace (es : List Event) (s : State) : (emit es s).trace = s.trace ++ es := rfl

/-! ### xFlush -/

@[simp] theorem xFlush_cur (s : State) : (xFlush s).cur = s.cur := rfl
@[simp] theorem xFlush_dbuf (s : State) : (xFlush s).dbuf = s.dbuf := rfl
@[simp] theorem xFlush_status (s : State) : (xFlush s).status = s.status := rfl
@[simp] theorem xFlush_rbyte (s : State) : (xFlush s).rbyte = s.rbyte := rfl
@[simp] theorem xFlush_rpid (s : State) : (xFlush s).rpid = s.rpid := rfl
@[simp] theorem xFlush_rlen (s : State) : (xFlush s).rlen = s.rlen := rfl
@[simp] theorem xFlush_rbuf (s : State) : (xFlush s).rbuf = s.rbuf := rfl
@[simp] theorem xFlush_csr (s : State) : (xFlush s).csr = s.csr := rfl
@[simp] theorem xFlush_tlen (s : State) : (xFlush s).tlen = s.tlen := rfl
@[simp] theorem xFlush_coll (s : State) : (xFlush s).coll = s.coll := rfl
@[simp] theorem xFlush_retry (s : State) : (xFlush s).retry = s.retry := rfl
@[simp] theorem xFlush_att (s : State) : (xFlush s).att = s.att := rfl
@[simp] theorem xFlush_host (s : State) : (xFlush s).host = s.host := rfl
@[simp] theorem xFlush_xcvr (s : State) : (xFlush s).xcvr = s.xcvr := rfl
@[simp] theorem xFlush_trace (s : State) : (xFlush s).trace = s.trace ++ [.flush] := rfl

/-! ### xBsi -/

@[simp] theorem xBsi_cur (id : BitVec 6) (s : State) : (xBsi id s).cur = s.cur := by unfold xBsi; split <;> rfl
@[simp] theorem xBsi_dbuf (id : BitVec 6) (s : State) : (xBsi id s).dbuf = s.dbuf := by unfold xBsi; split <;> rfl
@[simp] theorem xBsi_status (id : BitVec 6) (s : State) : (xBsi id s).status = s.status := by unfold xBsi; split <;> rfl
@[simp] theorem xBsi_rbyte (id : BitVec 6) (s : State) : (xBsi id s).rbyte = s.rbyte := by unfold xBsi; split <;> rfl
@[simp] theorem xBsi_rpid (id : BitVec 6) (s : State) : (xBsi id s).rpid = s.rpid := by unfold xBsi; split <;> rfl
@[simp] theorem xBsi_rlen (id : BitVec 6) (s : State) : (xBsi id s).rlen = s.rlen := by unfold xBsi; split <;> rfl
@[simp] theorem xBsi_rbuf (id : BitVec 6) (s : State) : (xBsi id s).rbuf = s.rbuf := by unfold xBsi; split <;> rfl
@[simp] theorem xBsi_csr (id : BitVec 6) (s : State) : (xBsi id s).csr = s.csr := by unfold xBsi; split <;> rfl
@[simp] theorem xBsi_tlen (id : BitVec 6) (s : State) : (xBsi id s).tlen = s.tlen := by unfold xBsi; split <;> rfl
@[simp] theorem xBsi_coll (id : BitVec 6) (s : State) : (xBsi id s).coll = s.coll := by unfold xBsi; split <;> rfl
@[simp] theorem xBsi_retry (id : BitVec 6) (s : State) : (xBsi id s).retry = s.retry := by unfold xBsi; split <;> rfl
@[simp] theorem xBsi_att (id : BitVec 6) (s : State) : (xBsi id s).att = s.att := by unfold xBsi; split <;> rfl
@[simp] theorem xBsi_host (id : BitVec 6) (s : State) : (xBsi id s).host = s.host := by unfold xBsi; split <;> rfl
@[simp] theorem xBsi_trace (id : BitVec 6) (s : State) : (xBsi id s).trace = s.trace ++ [.bsi id (bsiReturned s)] := by
  unfold xBsi; split <;> rfl
@[simp] theorem xBsi_rx (id : BitVec 6) (s : State) : (xBsi id s).xcvr.rx = s.xcvr.rx := by unfold xBsi; split <;> rfl

/-! ### xTx -/

@[simp] theorem xTx_cur (bytes : List Byte) (s : State) : (xTx bytes s).cur = s.cur := rfl
@[simp] theorem xTx_dbuf (bytes : List Byte) (s : State) : (xTx bytes s).dbuf = s.dbuf := rfl
@[simp] theorem xTx_status (bytes : List Byte) (s : State) : (xTx bytes s).status = s.status := rfl
@[simp] theorem xTx_rbyte (bytes : List Byte) (s : State) : (xTx bytes s).rbyte = s.rbyte := rfl
@[simp] theorem xTx_rpid (bytes : List Byte) (s : State) : (xTx bytes s).rpid = s.rpid := rfl
@[simp] theorem xTx_rlen (bytes : List Byte) (s : State) : (xTx bytes s).rlen = s.rlen := rfl
@[simp] theorem xTx_rbuf (bytes : List Byte) (s : State) : (xTx bytes s).rbuf = s.rbuf := rfl
@[simp] theorem xTx_csr (bytes : List Byte) (s : State) : (xTx bytes s).csr = s.csr := rfl
@[simp] theorem xTx_tlen (bytes : List Byte) (s : State) : (xTx bytes s).tlen = s.tlen := rfl
@[simp] theorem xTx_coll (bytes : List Byte) (s : State) : (xTx bytes s).coll = s.coll := rfl
@[simp] theorem xTx_retry (bytes : List Byte) (s : State) : (xTx bytes s).retry = s.retry := rfl
@[simp] theorem xTx_att (bytes : List Byte) (s : State) : (xTx bytes s).att = s.att := rfl
@[simp] theorem xTx_host (bytes : List Byte) (s : State) : (xTx bytes s).host = s.host := rfl
@[simp] theorem xTx_xcvr (bytes : List Byte) (s : State) : (xTx bytes s).xcvr = s.xcvr := rfl
@[simp] theorem xTx_trace (bytes : List Byte) (s : State) : (xTx bytes s).trace = s.trace ++ bytes.map .tx := rfl

/-! ### xWait -/

@[simp] theorem xWait_cur (t : Word) (s : State) : (xWait t s).cur = s.cur := rfl
@[simp] theorem xWait_dbuf (t : Word) (s : State) : (xWait t s).dbuf = s.dbuf := rfl
@[simp] theorem xWait_status (t : Word) (s : State) : (xWait t s).status = s.status := rfl
@[simp] theorem xWait_rbyte (t : Word) (s : State) : (xWait t s).rbyte = s.rbyte := rfl
@[simp] theorem xWait_rpid (t : Word) (s : State) : (xWait t s).rpid = s.rpid := rfl
@[simp] theorem xWait_rlen (t : Word) (s : State) : (xWait t s).rlen = s.rlen := rfl
@[simp] theorem xWait_rbuf (t : Word) (s : State) : (xWait t s).rbuf = s.rbuf := rfl
@[simp] theorem xWait_csr (t : Word) (s : State) : (xWait t s).csr = s.csr := rfl
@[simp] theorem xWait_tlen (t : Word) (s : State) : (xWait t s).tlen = s.tlen := rfl
@[simp] theorem xWait_coll (t : Word) (s : State) : (xWait t s).coll = s.coll := rfl
@[simp] theorem xWait_retry (t : Word) (s : State) : (xWait t s).retry = s.retry := rfl
@[simp] theorem xWait_att (t : Word) (s : State) : (xWait t s).att = s.att := rfl
@[simp] theorem xWait_host (t : Word) (s : State) : (xWait t s).host = s.host := rfl
@[simp] theorem xWait_xcvr (t : Word) (s : State) : (xWait t s).xcvr = s.xcvr := rfl
@[simp] theorem xWait_trace (t : Word) (s : State) : (xWait t s).trace = s.trace ++ [.wait t] := rfl

/-! ### xRx -/

@[simp] theorem xRx_cur (maxLen : Nat) (tmo : Word) (s : State) : (xRx maxLen tmo s).cur = s.cur := by unfold xRx; split <;> rfl
@[simp] theorem xRx_dbuf (maxLen : Nat) (tmo : Word) (s : State) : (xRx maxLen tmo s).dbuf = s.dbuf := by unfold xRx; split <;> rfl
@[simp] theorem xRx_status (maxLen : Nat) (tmo : Word) (s : State) : (xRx maxLen tmo s).status = s.status := by unfold xRx; split <;> rfl
@[simp] theorem xRx_rbyte (maxLen : Nat) (tmo : Word) (s : State) : (xRx maxLen tmo s).rbyte = s.rbyte := by unfold xRx; split <;> rfl
@[simp] theorem xRx_rpid (maxLen : Nat) (tmo : Word) (s : State) : (xRx maxLen tmo s).rpid = s.rpid := by unfold xRx; split <;> rfl
@[simp] theorem xRx_rlen (maxLen : Nat) (tmo : Word) (s : State) : (xRx maxLen tmo s).rlen = s.rlen := by unfold xRx; split <;> rfl
@[simp] theorem xRx_rbuf (maxLen : Nat) (tmo : Word) (s : State) : (xRx maxLen tmo s).rbuf = s.rbuf := by unfold xRx; split <;> rfl
@[simp] theorem xRx_csr (maxLen : Nat) (tmo : Word) (s : State) : (xRx maxLen tmo s).csr = s.csr := by unfold xRx; split <;> rfl
@[simp] theorem xRx_tlen (maxLen : Nat) (tmo : Word) (s : State) : (xRx maxLen tmo s).tlen = s.tlen := by unfold xRx; split <;> rfl
@[simp] theorem xRx_coll (maxLen : Nat) (tmo : Word) (s : State) : (xRx maxLen tmo s).coll = s.coll := by unfold xRx; split <;> rfl
@[simp] theorem xRx_retry (maxLen : Nat) (tmo : Word) (s : State) : (xRx maxLen tmo s).retry = s.retry := by unfold xRx; split <;> rfl
@[simp] theorem xRx_att (maxLen : Nat) (tmo : Word) (s : State) : (xRx maxLen tmo s).att = s.att := by unfold xRx; split <;> rfl
@[simp] theorem xRx_host (maxLen : Nat) (tmo : Word) (s : State) : (xRx maxLen tmo s).host = s.host := by unfold xRx; split <;> rfl
@[simp] theorem xRx_trace (maxLen : Nat) (tmo : Word) (s : State) :
    (xRx maxLen tmo s).trace = s.trace ++ [.rx maxLen tmo (rxAnswer maxLen s)] := by
  unfold xRx; split <;> rfl
@[simp] theorem xRx_bsi (maxLen : Nat) (tmo : Word) (s : State) : (xRx maxLen tmo s).xcvr.bsi = s.xcvr.bsi := by
  unfold xRx; split <;> rfl

/-! ### header -/

@[simp] theorem header_cur (id : BitVec 6) (s : State) : (header id s).cur = s.cur := by simp [header]
@[simp] theorem header_dbuf (id : BitVec 6) (s : State) : (header id s).dbuf = s.dbuf := by simp [header]
@[simp] theorem header_status (id : BitVec 6) (s : State) : (header id s).status = s.status := by simp [header]
@[simp] theorem header_rbyte (id : BitVec 6) (s : State) : (header id s).rbyte = s.rbyte := by simp [header]
@[simp] theorem header_rlen (id : BitVec 6) (s : State) : (header id s).rlen = s.rlen := by simp [header]
@[simp] theorem header_rbuf (id : BitVec 6) (s : State) : (header id s).rbuf = s.rbuf := by simp [header]
@[simp] theorem header_csr (id : BitVec 6) (s : State) : (header id s).csr = s.csr := by simp [header]
@[simp] theorem header_tlen (id : BitVec 6) (s : State) : (header id s).tlen = s.tlen := by simp [header]
@[simp] theorem header_coll (id : BitVec 6) (s : State) : (header id s).coll = s.coll := by simp [header]
@[simp] theorem header_retry (id : BitVec 6) (s : State) : (header id s).retry = s.retry := by simp [header]
@[simp] theorem header_att (id : BitVec 6) (s : State) : (header id s).att = s.att := by simp [header]
@[simp] theorem header_host (id : BitVec 6) (s : State) : (header id s).host = s.host := by simp [header]
@[simp] theorem header_rpid (id : BitVec 6) (s : State) : (header id s).rpid = computePid id := rfl
@[simp] theorem header_trace (id : BitVec 6) (s : State) :
    (header id s).trace = s.trace ++ [.flush, .bsi id (bsiReturned s)] := by
  simp [header, bsiReturned]
@[simp] theorem header_rx (id : BitVec 6) (s : State) : (header id s).xcvr.rx = s.xcvr.rx := by simp [header]

/-! ### send -/

@[simp] theorem send_cur (id : BitVec 6) (data : List Byte) (kind : Cksum) (s : State) : (send id data kind s).cur = s.cur := by simp [send]
@[simp] theorem send_dbuf (id : BitVec 6) (data : List Byte) (kind : Cksum) (s : State) : (send id data kind s).dbuf = s.dbuf := by simp [send]
@[simp] theorem send_status (id : BitVec 6) (data : List Byte) (kind : Cksum) (s : State) : (send id data kind s).status = s.status := by simp [send]
@[simp] theorem send_rbyte (id : BitVec 6) (data : List Byte) (kind : Cksum) (s : State) : (send id data kind s).rbyte = s.rbyte := by simp [send]
@[simp] theorem send_rlen (id : BitVec 6) (data : List Byte) (kind : Cksum) (s : State) : (send id data kind s).rlen = s.rlen := by simp [send]
@[simp] theorem send_rbuf (id : BitVec 6) (data : List Byte) (kind : Cksum) (s : State) : (send id data kind s).rbuf = s.rbuf := by simp [send]
@[simp] theorem send_csr (id : BitVec 6) (data : List Byte) (kind : Cksum) (s : State) : (send id data kind s).csr = s.csr := by simp [send]
@[simp] theorem send_tlen (id : BitVec 6) (data : List Byte) (kind : Cksum) (s : State) : (send id data kind s).tlen = s.tlen := by simp [send]
@[simp] theorem send_coll (id : BitVec 6) (data : List Byte) (kind : Cksum) (s : State) : (send id data kind s).coll = s.coll := by simp [send]
@[simp] theorem send_retry (id : BitVec 6) (data : List Byte) (kind : Cksum) (s : State) : (send id data kind s).retry = s.retry := by simp [send]
@[simp] theorem send_att (id : BitVec 6) (data : List Byte) (kind : Cksum) (s : State) : (send id data kind s).att = s.att := by simp [send]
@[simp] theorem send_host (id : BitVec 6) (data : List Byte) (kind : Cksum) (s : State) : (send id data kind s).host = s.host := by simp [send]
@[simp] theorem send_rpid (id : BitVec 6) (data : List Byte) (kind : Cksum) (s : State) :
    (send id data kind s).rpid = computePid id := by simp [send]
@[simp] theorem send_rx (id : BitVec 6) (data : List Byte) (kind : Cksum) (s : State) :
    (send id data kind s).xcvr.rx = s.xcvr.rx := by simp [send]
/-- The trace of a send (rule R134). -/
@[simp] theorem send_trace (id : BitVec 6) (data : List Byte) (kind : Cksum) (s : State) :
    (send id data kind s).trace = s.trace ++ ([.flush, .bsi id (bsiReturned s)] ++ data.map .tx
      ++ [.tx (frameChecksum kind (computePid id) data), .wait s.csr.ifg]) := by simp [send]

/-! ### recvState -/

@[simp] theorem recvState_cur (id : BitVec 6) (tmo : Word) (s : State) : (recvState id tmo s).cur = s.cur := by simp [recvState]
@[simp] theorem recvState_dbuf (id : BitVec 6) (tmo : Word) (s : State) : (recvState id tmo s).dbuf = s.dbuf := by simp [recvState]
@[simp] theorem recvState_status (id : BitVec 6) (tmo : Word) (s : State) : (recvState id tmo s).status = s.status := by simp [recvState]
@[simp] theorem recvState_rbyte (id : BitVec 6) (tmo : Word) (s : State) : (recvState id tmo s).rbyte = s.rbyte := by simp [recvState]
@[simp] theorem recvState_rlen (id : BitVec 6) (tmo : Word) (s : State) : (recvState id tmo s).rlen = s.rlen := by simp [recvState]
@[simp] theorem recvState_rbuf (id : BitVec 6) (tmo : Word) (s : State) : (recvState id tmo s).rbuf = s.rbuf := by simp [recvState]
@[simp] theorem recvState_csr (id : BitVec 6) (tmo : Word) (s : State) : (recvState id tmo s).csr = s.csr := by simp [recvState]
@[simp] theorem recvState_tlen (id : BitVec 6) (tmo : Word) (s : State) : (recvState id tmo s).tlen = s.tlen := by simp [recvState]
@[simp] theorem recvState_coll (id : BitVec 6) (tmo : Word) (s : State) : (recvState id tmo s).coll = s.coll := by simp [recvState]
@[simp] theorem recvState_retry (id : BitVec 6) (tmo : Word) (s : State) : (recvState id tmo s).retry = s.retry := by simp [recvState]
@[simp] theorem recvState_att (id : BitVec 6) (tmo : Word) (s : State) : (recvState id tmo s).att = s.att := by simp [recvState]
@[simp] theorem recvState_host (id : BitVec 6) (tmo : Word) (s : State) : (recvState id tmo s).host = s.host := by simp [recvState]
@[simp] theorem recvState_rpid (id : BitVec 6) (tmo : Word) (s : State) :
    (recvState id tmo s).rpid = computePid id := by simp [recvState]
/-- The trace of a poll (rule R136). -/
@[simp] theorem recvState_trace (id : BitVec 6) (tmo : Word) (s : State) :
    (recvState id tmo s).trace =
      s.trace ++ [.flush, .bsi id (bsiReturned s), .rx recvMax tmo (rxAnswer recvMax (header id s))] := by
  simp [recvState]

/-! ### deliver -/

@[simp] theorem deliver_cur (r : Parsed) (s : State) : (deliver r s).cur = s.cur := by simp [deliver]
@[simp] theorem deliver_dbuf (r : Parsed) (s : State) : (deliver r s).dbuf = s.dbuf := by simp [deliver]
@[simp] theorem deliver_rbyte (r : Parsed) (s : State) : (deliver r s).rbyte = s.rbyte := by simp [deliver]
@[simp] theorem deliver_rpid (r : Parsed) (s : State) : (deliver r s).rpid = s.rpid := by simp [deliver]
@[simp] theorem deliver_csr (r : Parsed) (s : State) : (deliver r s).csr = s.csr := by simp [deliver]
@[simp] theorem deliver_tlen (r : Parsed) (s : State) : (deliver r s).tlen = s.tlen := by simp [deliver]
@[simp] theorem deliver_coll (r : Parsed) (s : State) : (deliver r s).coll = s.coll := by simp [deliver]
@[simp] theorem deliver_retry (r : Parsed) (s : State) : (deliver r s).retry = s.retry := by simp [deliver]
@[simp] theorem deliver_att (r : Parsed) (s : State) : (deliver r s).att = s.att := by simp [deliver]
@[simp] theorem deliver_trace (r : Parsed) (s : State) : (deliver r s).trace = s.trace := by simp [deliver]
@[simp] theorem deliver_host (r : Parsed) (s : State) : (deliver r s).host = s.host := by simp [deliver]
@[simp] theorem deliver_xcvr (r : Parsed) (s : State) : (deliver r s).xcvr = s.xcvr := by simp [deliver]
@[simp] theorem deliver_rbuf (r : Parsed) (s : State) : (deliver r s).rbuf = Memory.ofBytesAt 0 r.data := by
  simp [deliver]
@[simp] theorem deliver_rlen (r : Parsed) (s : State) : (deliver r s).rlen = BitVec.ofNat 13 r.data.length := by
  simp [deliver]
@[simp] theorem deliver_status (r : Parsed) (s : State) : (deliver r s).status =
    { s.status with
      ckok := r.cls.matched, rclass := r.cls, done := r.kind == .none, fail := !(r.kind == .none), fkind := r.kind,
      busy := false } := by
  simp [deliver]

/-! ### afterResponsePoll -/

@[simp] theorem afterResponsePoll_cur (s : State) : (afterResponsePoll s).cur = s.cur := by simp [afterResponsePoll]
@[simp] theorem afterResponsePoll_dbuf (s : State) : (afterResponsePoll s).dbuf = s.dbuf := by simp [afterResponsePoll]
@[simp] theorem afterResponsePoll_rbyte (s : State) : (afterResponsePoll s).rbyte = s.rbyte := by simp [afterResponsePoll]
@[simp] theorem afterResponsePoll_rlen (s : State) : (afterResponsePoll s).rlen = s.rlen := by simp [afterResponsePoll]
@[simp] theorem afterResponsePoll_rbuf (s : State) : (afterResponsePoll s).rbuf = s.rbuf := by simp [afterResponsePoll]
@[simp] theorem afterResponsePoll_csr (s : State) : (afterResponsePoll s).csr = s.csr := by simp [afterResponsePoll]
@[simp] theorem afterResponsePoll_tlen (s : State) : (afterResponsePoll s).tlen = s.tlen := by simp [afterResponsePoll]
@[simp] theorem afterResponsePoll_coll (s : State) : (afterResponsePoll s).coll = s.coll := by simp [afterResponsePoll]
@[simp] theorem afterResponsePoll_retry (s : State) : (afterResponsePoll s).retry = s.retry := by simp [afterResponsePoll]
@[simp] theorem afterResponsePoll_host (s : State) : (afterResponsePoll s).host = s.host := by simp [afterResponsePoll]
@[simp] theorem afterResponsePoll_att (s : State) : (afterResponsePoll s).att = BitVec.ofNat 8 (s.att.toNat + 1) := rfl
@[simp] theorem afterResponsePoll_rpid (s : State) : (afterResponsePoll s).rpid = computePid diagRespId := by
  simp [afterResponsePoll]
@[simp] theorem afterResponsePoll_status (s : State) : (afterResponsePoll s).status =
    { s.status with
      ckok := (recvParsed diagRespId .classic s).cls.matched, rclass := (recvParsed diagRespId .classic s).cls } := by
  simp [afterResponsePoll]
@[simp] theorem afterResponsePoll_trace (s : State) : (afterResponsePoll s).trace =
    s.trace ++ [.flush, .bsi diagRespId (bsiReturned s),
      .rx recvMax s.csr.respTmo (rxAnswer recvMax (header diagRespId s))] := by
  simp [afterResponsePoll]

/-! ### afterCfPoll -/

@[simp] theorem afterCfPoll_cur (s : State) : (afterCfPoll s).cur = s.cur := by simp [afterCfPoll]
@[simp] theorem afterCfPoll_dbuf (s : State) : (afterCfPoll s).dbuf = s.dbuf := by simp [afterCfPoll]
@[simp] theorem afterCfPoll_rbyte (s : State) : (afterCfPoll s).rbyte = s.rbyte := by simp [afterCfPoll]
@[simp] theorem afterCfPoll_rlen (s : State) : (afterCfPoll s).rlen = s.rlen := by simp [afterCfPoll]
@[simp] theorem afterCfPoll_rbuf (s : State) : (afterCfPoll s).rbuf = s.rbuf := by simp [afterCfPoll]
@[simp] theorem afterCfPoll_csr (s : State) : (afterCfPoll s).csr = s.csr := by simp [afterCfPoll]
@[simp] theorem afterCfPoll_tlen (s : State) : (afterCfPoll s).tlen = s.tlen := by simp [afterCfPoll]
@[simp] theorem afterCfPoll_coll (s : State) : (afterCfPoll s).coll = s.coll := by simp [afterCfPoll]
@[simp] theorem afterCfPoll_retry (s : State) : (afterCfPoll s).retry = s.retry := by simp [afterCfPoll]
@[simp] theorem afterCfPoll_att (s : State) : (afterCfPoll s).att = s.att := by simp [afterCfPoll]
@[simp] theorem afterCfPoll_host (s : State) : (afterCfPoll s).host = s.host := by simp [afterCfPoll]
@[simp] theorem afterCfPoll_rpid (s : State) : (afterCfPoll s).rpid = computePid diagRespId := by simp [afterCfPoll]
@[simp] theorem afterCfPoll_status (s : State) : (afterCfPoll s).status =
    { s.status with
      ckok := (recvParsed diagRespId .classic s).cls.matched, rclass := (recvParsed diagRespId .classic s).cls } := by
  simp [afterCfPoll]
@[simp] theorem afterCfPoll_trace (s : State) : (afterCfPoll s).trace =
    s.trace ++ [.flush, .bsi diagRespId (bsiReturned s),
      .rx recvMax s.csr.cfTmo (rxAnswer recvMax (header diagRespId s))] := by
  simp [afterCfPoll]

/-! ### failExchange -/

@[simp] theorem failExchange_cur (k : FKind) (s : State) : (failExchange k s).cur = s.cur := by simp [failExchange]
@[simp] theorem failExchange_dbuf (k : FKind) (s : State) : (failExchange k s).dbuf = s.dbuf := by simp [failExchange]
@[simp] theorem failExchange_rbyte (k : FKind) (s : State) : (failExchange k s).rbyte = s.rbyte := by simp [failExchange]
@[simp] theorem failExchange_rpid (k : FKind) (s : State) : (failExchange k s).rpid = s.rpid := by simp [failExchange]
@[simp] theorem failExchange_csr (k : FKind) (s : State) : (failExchange k s).csr = s.csr := by simp [failExchange]
@[simp] theorem failExchange_tlen (k : FKind) (s : State) : (failExchange k s).tlen = s.tlen := by simp [failExchange]
@[simp] theorem failExchange_coll (k : FKind) (s : State) : (failExchange k s).coll = s.coll := by simp [failExchange]
@[simp] theorem failExchange_retry (k : FKind) (s : State) : (failExchange k s).retry = s.retry := by simp [failExchange]
@[simp] theorem failExchange_att (k : FKind) (s : State) : (failExchange k s).att = s.att := by simp [failExchange]
@[simp] theorem failExchange_trace (k : FKind) (s : State) : (failExchange k s).trace = s.trace := by simp [failExchange]
@[simp] theorem failExchange_host (k : FKind) (s : State) : (failExchange k s).host = s.host := by simp [failExchange]
@[simp] theorem failExchange_xcvr (k : FKind) (s : State) : (failExchange k s).xcvr = s.xcvr := by simp [failExchange]
@[simp] theorem failExchange_rbuf (k : FKind) (s : State) : (failExchange k s).rbuf = [] := rfl
@[simp] theorem failExchange_rlen (k : FKind) (s : State) : (failExchange k s).rlen = 0 := rfl
@[simp] theorem failExchange_status (k : FKind) (s : State) : (failExchange k s).status =
    { s.status with tstate := .failed, done := false, fail := true, fkind := k, busy := false } := rfl

/-! ### completeExchange -/

@[simp] theorem completeExchange_cur (s : State) : (completeExchange s).cur = s.cur := by simp [completeExchange]
@[simp] theorem completeExchange_dbuf (s : State) : (completeExchange s).dbuf = s.dbuf := by simp [completeExchange]
@[simp] theorem completeExchange_rbyte (s : State) : (completeExchange s).rbyte = s.rbyte := by simp [completeExchange]
@[simp] theorem completeExchange_rpid (s : State) : (completeExchange s).rpid = s.rpid := by simp [completeExchange]
@[simp] theorem completeExchange_csr (s : State) : (completeExchange s).csr = s.csr := by simp [completeExchange]
@[simp] theorem completeExchange_tlen (s : State) : (completeExchange s).tlen = s.tlen := by simp [completeExchange]
@[simp] theorem completeExchange_coll (s : State) : (completeExchange s).coll = s.coll := by simp [completeExchange]
@[simp] theorem completeExchange_retry (s : State) : (completeExchange s).retry = s.retry := by simp [completeExchange]
@[simp] theorem completeExchange_att (s : State) : (completeExchange s).att = s.att := by simp [completeExchange]
@[simp] theorem completeExchange_trace (s : State) : (completeExchange s).trace = s.trace := by simp [completeExchange]
@[simp] theorem completeExchange_host (s : State) : (completeExchange s).host = s.host := by simp [completeExchange]
@[simp] theorem completeExchange_xcvr (s : State) : (completeExchange s).xcvr = s.xcvr := by simp [completeExchange]
@[simp] theorem completeExchange_rbuf (s : State) :
    (completeExchange s).rbuf = Memory.ofBytesAt 0 (s.coll.take s.tlen.toNat) := rfl
@[simp] theorem completeExchange_rlen (s : State) :
    (completeExchange s).rlen = BitVec.ofNat 13 (s.coll.take s.tlen.toNat).length := rfl
@[simp] theorem completeExchange_status (s : State) : (completeExchange s).status =
    { s.status with tstate := .done, done := true, fail := false, fkind := .none, busy := false } := rfl

/-! ### resetBlock -/

@[simp] theorem resetBlock_trace (s : State) : (resetBlock s).trace = s.trace := rfl
@[simp] theorem resetBlock_host (s : State) : (resetBlock s).host = s.host := rfl
@[simp] theorem resetBlock_xcvr (s : State) : (resetBlock s).xcvr = s.xcvr := rfl
@[simp] theorem resetBlock_dbuf (s : State) : (resetBlock s).dbuf = [] := rfl
@[simp] theorem resetBlock_rbuf (s : State) : (resetBlock s).rbuf = [] := rfl
@[simp] theorem resetBlock_status (s : State) : (resetBlock s).status = Status.reset := rfl
@[simp] theorem resetBlock_csr (s : State) : (resetBlock s).csr = Csrs.reset := rfl
@[simp] theorem resetBlock_coll (s : State) : (resetBlock s).coll = [] := rfl
@[simp] theorem resetBlock_rlen (s : State) : (resetBlock s).rlen = 0 := rfl

end Sys2Proof.Machine
end

