-- ==== Sys2Proof/Laws/Ops.lean ====
section
/-! SUPPORT. One lemma per shared operation that says everything it can do, and the laws of the indexed spaces. -/

namespace Sys2Proof.Machine

/-! ### The indexed spaces -/

@[simp] theorem Memory.read_nil (a : Nat) : Memory.read [] a = none := rfl

@[simp] theorem Memory.read_write_same (m : Memory) (a : Nat) (b : Byte) : (m.write a b).read a = some b := by
  induction m with
  | nil => simp [Memory.write, Memory.read]
  | cons c rest ih =>
    obtain ⟨k, v⟩ := c
    simp only [Memory.write]
    split
    · simp [Memory.read]
    · split
      · simp [Memory.read]
      · rename_i h1 h2
        simp [Memory.read, Ne.symm h2, ih]

theorem Memory.read_write_other (m : Memory) {a c : Nat} (b : Byte) (h : c ≠ a) : (m.write a b).read c = m.read c := by
  induction m with
  | nil => simp [Memory.write, Memory.read, Ne.symm h]
  | cons x rest ih =>
    obtain ⟨k, v⟩ := x
    simp only [Memory.write]
    split
    · simp [Memory.read, Ne.symm h]
    · split
      · rename_i h2; subst h2; simp [Memory.read, Ne.symm h]
      · simp [Memory.read, ih]

theorem Memory.risingFrom_mono {lo lo' : Nat} (h : lo' ≤ lo) (m : Memory) (hm : m.risingFrom lo = true) :
    m.risingFrom lo' = true := by
  cases m with
  | nil => rfl
  | cons c rest =>
    simp only [Memory.risingFrom, Bool.and_eq_true, decide_eq_true_eq] at hm ⊢
    exact ⟨by omega, hm.2⟩

theorem Memory.risingFrom_write {lo a : Nat} (h : lo ≤ a) (m : Memory) (b : Byte) (hm : m.risingFrom lo = true) :
    (m.write a b).risingFrom lo = true := by
  induction m generalizing lo with
  | nil => simp [Memory.write, Memory.risingFrom, h]
  | cons c rest ih =>
    obtain ⟨k, v⟩ := c
    simp only [Memory.risingFrom, Bool.and_eq_true, decide_eq_true_eq] at hm
    simp only [Memory.write]
    split
    · simp only [Memory.risingFrom, Bool.and_eq_true, decide_eq_true_eq]
      exact ⟨h, by omega, hm.2⟩
    · split
      · rename_i h2; subst h2
        simp only [Memory.risingFrom, Bool.and_eq_true, decide_eq_true_eq]
        exact hm
      · simp only [Memory.risingFrom, Bool.and_eq_true, decide_eq_true_eq]
        exact ⟨hm.1, ih (by omega) hm.2⟩

/-- A write keeps the canonical form. -/
theorem Memory.wf_write (m : Memory) (a : Nat) (b : Byte) (hm : m.wf = true) : (m.write a b).wf = true :=
  Memory.risingFrom_write (Nat.zero_le a) m b hm

theorem Memory.mem_write {m : Memory} {a : Nat} {b : Byte} {c : Host.Cell} (h : c ∈ m.write a b) :
    c = (a, b) ∨ c ∈ m := by
  induction m with
  | nil => simpa [Memory.write] using h
  | cons x rest ih =>
    obtain ⟨k, v⟩ := x
    simp only [Memory.write] at h
    split at h
    · simpa using h
    · split at h
      · rcases List.mem_cons.mp h with h | h
        · exact .inl h
        · exact .inr (by simp [h])
      · rcases List.mem_cons.mp h with h | h
        · exact .inr (by simp [h])
        · rcases ih h with h | h
          · exact .inl h
          · exact .inr (by simp [h])

theorem Memory.risingFrom_ofBytesAt (l : List Byte) (a : Nat) : (Memory.ofBytesAt a l).risingFrom a = true := by
  induction l generalizing a with
  | nil => rfl
  | cons b rest ih => simp [Memory.ofBytesAt, Memory.risingFrom, ih]

/-- A result buffer written as a prefix is in canonical form. -/
theorem Memory.wf_ofBytesAt (l : List Byte) (a : Nat) : (Memory.ofBytesAt a l).wf = true :=
  Memory.risingFrom_mono (Nat.zero_le a) _ (Memory.risingFrom_ofBytesAt l a)

theorem Memory.read_ofBytesAt (l : List Byte) (a k : Nat) :
    (Memory.ofBytesAt a l).read k = if a ≤ k then l[k - a]? else none := by
  induction l generalizing a with
  | nil => simp [Memory.ofBytesAt]
  | cons b rest ih =>
    simp only [Memory.ofBytesAt, Memory.read, ih]
    by_cases h : a = k
    · subst h; simp
    · by_cases h2 : a ≤ k
      · have : k - a = (k - (a + 1)) + 1 := by omega
        simp [h, h2, this, show a + 1 ≤ k by omega]
      · simp [h, h2, show ¬a + 1 ≤ k by omega]

/-- A prefix reads as its bytes and holds no value beyond (rules R32, R33). -/
@[simp] theorem Memory.read_ofBytesAt_zero (l : List Byte) (k : Nat) : (Memory.ofBytesAt 0 l).read k = l[k]? := by
  simp [Memory.read_ofBytesAt]

/-- Placing operand bytes keeps the canonical form. -/
theorem Memory.wf_fillOperands (m : Memory) (n : Nat) (hm : m.wf = true) : (fillOperands m n).wf = true := by
  induction n with
  | zero => exact hm
  | succ n ih =>
    simp only [fillOperands]
    split
    · exact ih
    · exact Memory.wf_write _ _ _ ih

theorem Memory.readSeq_eq_some {m : Memory} {n : Nat} {a : Nat} {l : List Byte} :
    m.readSeq a n = some l ↔ l.length = n ∧ ∀ k, k < n → m.read (a + k) = l[k]? := by
  induction n generalizing a l with
  | zero =>
    simp only [Memory.readSeq, Option.some.injEq, Nat.not_lt_zero, false_implies, implies_true, and_true,
      List.length_eq_zero_iff]
    exact eq_comm
  | succ n ih =>
    simp only [Memory.readSeq]
    constructor
    · intro h
      split at h
      · rename_i b rest hb hr
        cases h
        obtain ⟨hl, hk⟩ := ih.mp hr
        refine ⟨by simp [hl], fun k hk' => ?_⟩
        cases k with
        | zero => simpa using hb
        | succ k => simpa [Nat.add_assoc, Nat.add_comm 1 k] using hk k (by omega)
      · cases h
    · rintro ⟨hl, hk⟩
      cases l with
      | nil => simp at hl
      | cons b rest =>
        have h0 : m.read a = some b := by simpa using hk 0 (by omega)
        have hr : m.readSeq (a + 1) n = some rest :=
          ih.mpr ⟨by simpa using hl, fun k hk' => by
            simpa [Nat.add_assoc, Nat.add_comm 1 k] using hk (k + 1) (by omega)⟩
        simp [h0, hr]

theorem Memory.readSeq_eq_none {m : Memory} {n : Nat} {a : Nat} :
    m.readSeq a n = none ↔ ∃ k, k < n ∧ m.read (a + k) = none := by
  induction n generalizing a with
  | zero => simp [Memory.readSeq]
  | succ n ih =>
    simp only [Memory.readSeq]
    cases h0 : m.read a with
    | none => simp only [true_iff]; exact ⟨0, by omega, by simpa using h0⟩
    | some b =>
      cases hr : m.readSeq (a + 1) n with
      | none =>
        obtain ⟨k, hk, hn⟩ := ih.mp hr
        simp only [true_iff]
        exact ⟨k + 1, by omega, by simpa [Nat.add_assoc, Nat.add_comm 1 k] using hn⟩
      | some rest =>
        simp only [reduceCtorEq, false_iff, not_exists, not_and]
        intro k hk hn
        cases k with
        | zero => simp [h0] at hn
        | succ k =>
          have : m.readSeq (a + 1) n = none := ih.mpr ⟨k, by omega, by simpa [Nat.add_assoc, Nat.add_comm 1 k] using hn⟩
          rw [hr] at this; cases this

/-! ### Operands -/

/-- The operands are defined exactly when they are some bytes `DBUF` holds. -/
theorem operands_eq_some {n : Nat} {s : State} {l : List Byte} :
    operands n s = some l ↔ l.length = n ∧ ∀ k, k < n → s.dbuf.read k = l[k]? := by
  simpa [operands] using Memory.readSeq_eq_some (m := s.dbuf) (n := n) (a := 0) (l := l)

theorem operands_eq_none {n : Nat} {s : State} : operands n s = none ↔ ∃ k, k < n ∧ s.dbuf.read k = none := by
  simpa [operands] using Memory.readSeq_eq_none (m := s.dbuf) (n := n) (a := 0)

theorem withOperands_of_some {n : Nat} {s : State} {l : List Byte} (h : operands n s = some l) (f : List Byte → State) :
    withOperands n s f = .next (f l) := by simp [withOperands, h]

theorem withOperands_of_none {n : Nat} {s : State} (h : operands n s = none) (f : List Byte → State) :
    withOperands n s f = .fault .undefOperand := by simp [withOperands, h]

/-- Everything `withOperands` can answer with a next state. -/
theorem withOperands_next {n : Nat} {s t : State} {f : List Byte → State} (h : withOperands n s f = .next t) :
    ∃ l, operands n s = some l ∧ t = f l := by
  unfold withOperands at h
  split at h
  · rename_i l hl; cases h; exact ⟨l, hl, rfl⟩
  · cases h

/-! ### The codec functions -/

@[simp] theorem RClass.matched_none : RClass.none.matched = false := rfl
@[simp] theorem RClass.matched_classic : RClass.classic.matched = true := rfl
@[simp] theorem RClass.matched_enhanced : RClass.enhanced.matched = true := rfl
@[simp] theorem RClass.outcome_none : RClass.none.outcome = .checksum := rfl
@[simp] theorem RClass.outcome_classic : RClass.classic.outcome = .none := rfl
@[simp] theorem RClass.outcome_enhanced : RClass.enhanced.outcome = .none := rfl

/-- The running sum stays in 0..255 (rule R102). -/
theorem sumStep_le {s : Nat} (hs : s ≤ 255) (b : Byte) : sumStep s b ≤ 255 := by
  have := b.isLt
  unfold sumStep; split <;> omega

theorem foldl_sumStep_le (data : List Byte) {s : Nat} (hs : s ≤ 255) : data.foldl sumStep s ≤ 255 := by
  induction data generalizing s with
  | nil => simpa
  | cons b rest ih => exact ih (sumStep_le hs b)

/-- The search for the first PID byte (rule R112). -/
theorem afterFirst_eq_some {x : Byte} {s rest : List Byte} :
    afterFirst x s = some rest ↔ ∃ pre, s = pre ++ x :: rest ∧ x ∉ pre := by
  induction s with
  | nil => simp [afterFirst]
  | cons b t ih =>
    simp only [afterFirst]
    split
    · rename_i h; subst h
      constructor
      · intro h; cases h; exact ⟨[], by simp⟩
      · rintro ⟨pre, hp, hn⟩
        cases pre with
        | nil => simpa using hp
        | cons c pre => simp at hp; exact absurd (by simp [hp.1]) hn
    · rename_i h
      rw [ih]
      constructor
      · rintro ⟨pre, hp, hn⟩; exact ⟨b :: pre, by simp [hp], by simp [hn, Ne.symm h]⟩
      · rintro ⟨pre, hp, hn⟩
        cases pre with
        | nil => simp at hp; exact absurd hp.1 h
        | cons c pre => simp at hp hn; exact ⟨pre, hp.2, hn.2⟩

theorem afterFirst_eq_none {x : Byte} {s : List Byte} : afterFirst x s = none ↔ x ∉ s := by
  induction s with
  | nil => simp [afterFirst]
  | cons b t ih =>
    simp only [afterFirst]
    split
    · rename_i h; simp [h]
    · rename_i h; simp [ih, Ne.symm h]

/-- Everything a capture parse can return (rules R112, R213). -/
theorem parse_cases (pid : Byte) (s : List Byte) (policy : Policy) :
    (parse pid s policy).cls = .none ∧ (parse pid s policy).data = [] ∧
      (parse pid s policy).kind ∈ [.timeout, .noPid, .short, .protocol] ∨
    (parse pid s policy).kind = (parse pid s policy).cls.outcome ∧ 1 ≤ (parse pid s policy).data.length ∧
      (parse pid s policy).data.length ≤ 8 := by
  unfold parse
  split
  · simp
  · split
    · simp
    · split
      · simp
      · split
        · simp
        · rename_i rest _ h1 h2
          exact .inr ⟨rfl, by simp at h1 ⊢; omega, by simpa using h2⟩

/-- A parse succeeds exactly when a kind matched. -/
theorem parse_kind_none {pid : Byte} {s : List Byte} {policy : Policy} :
    (parse pid s policy).kind = .none ↔ (parse pid s policy).cls ≠ .none := by
  rcases parse_cases pid s policy with ⟨hc, -, hk⟩ | ⟨hk, -⟩
  · constructor
    · intro h; simp [h] at hk
    · intro h; exact absurd hc h
  · cases h : (parse pid s policy).cls <;> simp [hk, h]

theorem parse_data_length (pid : Byte) (s : List Byte) (policy : Policy) :
    (parse pid s policy).data.length ≤ 8 := by
  rcases parse_cases pid s policy with ⟨-, hd, -⟩ | ⟨-, -, h⟩
  · simp [hd]
  · exact h

/-- A Classic poll matches the Classic kind or none (rule R106). -/
theorem parse_classic_cls (pid : Byte) (s : List Byte) :
    (parse pid s .classic).cls = .none ∨ (parse pid s .classic).cls = .classic := by
  unfold parse
  split
  · simp
  · split
    · simp
    · split
      · simp
      · split
        · simp
        · simp only [validate]; split <;> simp

/-! ### The transceiver -/

/-- Every answer is within the read's bound (rules R133, R225). -/
theorem rxAnswer_length (n : Nat) (s : State) : (rxAnswer n s).length ≤ n := by
  unfold rxAnswer; split <;> simp

/-! The transceiver does not see the host's queue. -/

@[simp] theorem bsiReturned_withHost (s : State) (hs : List HostAction) :
    bsiReturned { s with host := hs } = bsiReturned s := rfl
theorem header_withHost (id : BitVec 6) (s : State) (hs : List HostAction) :
    header id { s with host := hs } = { header id s with host := hs } := by
  simp only [header, xBsi, xFlush, emit, bsiReturned]; split <;> simp_all
@[simp] theorem rxAnswer_header_withHost (n : Nat) (id : BitVec 6) (s : State) (hs : List HostAction) :
    rxAnswer n (header id { s with host := hs }) = rxAnswer n (header id s) := by rw [header_withHost]; rfl
@[simp] theorem recvParsed_withHost (id : BitVec 6) (p : Policy) (s : State) (hs : List HostAction) :
    recvParsed id p { s with host := hs } = recvParsed id p s := by simp [recvParsed]

theorem rxAnswer_of_listed {n : Nat} {s : State} {a : List Byte} {more : List (List Byte)} (h : s.xcvr.rx = a :: more) :
    rxAnswer n s = a.take n := by simp [rxAnswer, h]

theorem xRx_rx_of_listed {n : Nat} {tmo : Word} {s : State} {a : List Byte} {more : List (List Byte)}
    (h : s.xcvr.rx = a :: more) : (xRx n tmo s).xcvr.rx = more := by simp [xRx, h]

/-- The one read of a poll takes the next listed answer. -/
theorem recvState_rx_of_listed {id : BitVec 6} {tmo : Word} {s : State} {a : List Byte} {more : List (List Byte)}
    (h : s.xcvr.rx = a :: more) : (recvState id tmo s).xcvr.rx = more := by
  unfold recvState; exact xRx_rx_of_listed (by simpa using h)

theorem rxAnswer_header_of_listed {id : BitVec 6} {n : Nat} {s : State} {a : List Byte} {more : List (List Byte)}
    (h : s.xcvr.rx = a :: more) : rxAnswer n (header id s) = a.take n := rxAnswer_of_listed (by simpa using h)

@[simp] theorem computePid_diagRespId : computePid diagRespId = 0x7D := by decide
@[simp] theorem computePid_diagReqId : computePid diagReqId = 0x3C := by decide

/-! ### The transport operations -/

/-- Everything the completion test can do (rule R163). -/
theorem completionTest_cases (s : State) :
    (s.tlen.toNat ≤ s.coll.length ∧ completionTest s = completeExchange s) ∨
    (s.coll.length < s.tlen.toNat ∧ completionTest s = s) := by
  unfold completionTest; split
  · exact .inl ⟨‹_›, rfl⟩
  · exact .inr ⟨by omega, rfl⟩

/-- Everything an unusable poll can do (rules R167, R168). -/
theorem unusablePoll_cases (s : State) :
    (s.retry.toNat + 1 ≤ s.csr.maxRetries.toNat ∧
      unusablePoll s = { s with retry := BitVec.ofNat 5 (s.retry.toNat + 1) }) ∨
    (s.csr.maxRetries.toNat < s.retry.toNat + 1 ∧
      unusablePoll s = { s with
        retry := BitVec.ofNat 5 (s.retry.toNat + 1)
        rbuf := Memory.ofBytesAt 0 (s.coll.take s.tlen.toNat)
        rlen := BitVec.ofNat 13 (s.coll.take s.tlen.toNat).length
        status := { s.status with
          tstate := .failed, done := false, fail := true, fkind := .retryExhausted, busy := false } }) := by
  by_cases h : s.retry.toNat + 1 > s.csr.maxRetries.toNat
  · exact .inr ⟨h, by simp only [unusablePoll, if_pos h]; rfl⟩
  · exact .inl ⟨by omega, by simp only [unusablePoll, if_neg h]⟩

/-- Everything the Flow Control step can do (rules R161, R162). -/
theorem flowControl_cases (s : State) :
    (s.csr.profile = 0 ∧ flowControl s = send diagReqId (buildFC s.csr) .classic s) ∨
    (s.csr.profile = 1 ∧ flowControl s = s) := by
  unfold flowControl; split
  · exact .inl ⟨‹_›, rfl⟩
  · refine .inr ⟨?_, rfl⟩
    rename_i h
    have := s.csr.profile.isLt
    apply BitVec.eq_of_toNat_eq
    have h2 : s.csr.profile.toNat ≠ 0 := fun h0 => h (BitVec.eq_of_toNat_eq (by simpa using h0))
    simp; omega

/-! ### What an operation leaves alone -/

/-- The registers no operation of an exchange writes, and the one way the trace changes. -/
structure Kept (s t : State) : Prop where
  csr : t.csr = s.csr
  ovr : t.status.ovr = s.status.ovr
  dbuf : t.dbuf = s.dbuf
  cur : t.cur = s.cur
  host : t.host = s.host
  rbyte : t.rbyte = s.rbyte
  trace : ∃ es, t.trace = s.trace ++ es

theorem Kept.trans {s t u : State} (h : Kept s t) (k : Kept t u) : Kept s u :=
  ⟨k.csr.trans h.csr, k.ovr.trans h.ovr, k.dbuf.trans h.dbuf, k.cur.trans h.cur, k.host.trans h.host,
    k.rbyte.trans h.rbyte, by
      obtain ⟨e, he⟩ := h.trace
      obtain ⟨f, hf⟩ := k.trace
      exact ⟨e ++ f, by rw [hf, he, List.append_assoc]⟩⟩

theorem flowControl_kept (s : State) : Kept s (flowControl s) := by
  rcases flowControl_cases s with ⟨-, e⟩ | ⟨-, e⟩ <;> rw [e]
  · exact ⟨by simp, by simp, by simp, by simp, by simp, by simp, by simp⟩
  · exact ⟨rfl, rfl, rfl, rfl, rfl, rfl, [], by simp⟩

theorem completionTest_kept (s : State) : Kept s (completionTest s) := by
  rcases completionTest_cases s with ⟨-, e⟩ | ⟨-, e⟩ <;> rw [e] <;>
    exact ⟨rfl, rfl, rfl, rfl, rfl, rfl, [], (List.append_nil _).symm⟩

theorem unusablePoll_kept (s : State) : Kept s (unusablePoll s) := by
  rcases unusablePoll_cases s with ⟨-, e⟩ | ⟨-, e⟩ <;> rw [e] <;>
    exact ⟨rfl, rfl, rfl, rfl, rfl, rfl, [], (List.append_nil _).symm⟩

theorem failExchange_kept (k : FKind) (s : State) : Kept s (failExchange k s) :=
  ⟨rfl, rfl, rfl, rfl, rfl, rfl, [], (List.append_nil _).symm⟩

theorem decodeFrame_kept (id : BitVec 6) (p : Policy) (bytes : List Byte) (s : State) :
    Kept s (decodeFrame id p bytes s) := by
  constructor <;> simp [decodeFrame]

theorem deliver_kept (r : Parsed) (s : State) : Kept s (deliver r s) := by
  constructor <;> simp [deliver]

theorem inReassembly_iff (s : State) : inReassembly s = true ↔ s.status.tstate = .reassembling := by
  unfold inReassembly; split <;> simp_all

theorem polling_iff (s : State) :
    polling s = true ↔ s.status.tstate = .awaitingResponse ∨ s.status.tstate = .reassembling := by
  unfold polling; split <;> simp_all

/-- A payload with the expected NAD and a PCI byte (rule R157). -/
theorem addressed_iff {nad : Byte} {p : List Byte} :
    addressed nad p = true ↔ ∃ b rest, p = nad :: b :: rest := by
  unfold addressed
  cases p with
  | nil => simp
  | cons a p =>
    cases p with
    | nil => simp
    | cons b rest => simp

end Sys2Proof.Machine
end

