-- ==== Sys2Proof/Laws/PerInstr.lean ====
section
/-! SUPPORT. One lemma per constructor: a well-formed instruction decodes from its encoding (rules R71 to R76, R82,
R92). -/

namespace Sys2Proof.Laws.RoundTrip

/-- The decoder reads back what the encoder wrote. -/
def Statement (i : Instr) : Prop := i.wellFormed = true → decode (encode i) = .ok i

theorem pid (id : BitVec 6) : Statement (.pid id) := by
  intro h
  simp_all [Instr.wellFormed, encode, decode, decodeCommand]

theorem cksc (len : BitVec 4) : Statement (.cksc len) := by
  intro h
  simp_all [Instr.wellFormed, encode, decode, decodeCommand]

theorem ckse (id : BitVec 6) (len : BitVec 4) : Statement (.ckse id len) := by
  intro h
  simp_all [Instr.wellFormed, encode, decode, decodeCommand]

theorem fencC (id : BitVec 6) (len : BitVec 4) : Statement (.fencC id len) := by
  intro h
  simp_all [Instr.wellFormed, encode, decode, decodeCommand]

theorem fencE (id : BitVec 6) (len : BitVec 4) : Statement (.fencE id len) := by
  intro h
  simp_all [Instr.wellFormed, encode, decode, decodeCommand]

theorem fdecC (id : BitVec 6) (len : BitVec 4) : Statement (.fdecC id len) := by
  intro h
  simp_all [Instr.wellFormed, encode, decode, decodeCommand]

theorem fdecE (id : BitVec 6) (len : BitVec 4) : Statement (.fdecE id len) := by
  intro h
  simp_all [Instr.wellFormed, encode, decode, decodeCommand]

theorem fdecCE (id : BitVec 6) (len : BitVec 4) : Statement (.fdecCE id len) := by
  intro h
  simp_all [Instr.wellFormed, encode, decode, decodeCommand]

theorem scanC (id : BitVec 6) (len : BitVec 4) : Statement (.scanC id len) := by
  intro h
  simp_all [Instr.wellFormed, encode, decode, decodeCommand]

theorem scanE (id : BitVec 6) (len : BitVec 4) : Statement (.scanE id len) := by
  intro h
  simp_all [Instr.wellFormed, encode, decode, decodeCommand]

theorem scanCE (id : BitVec 6) (len : BitVec 4) : Statement (.scanCE id len) := by
  intro h
  simp_all [Instr.wellFormed, encode, decode, decodeCommand]

theorem hdr (id : BitVec 6) : Statement (.hdr id) := by
  intro h
  simp_all [Instr.wellFormed, encode, decode, decodeCommand]

theorem sendC (id : BitVec 6) (len : BitVec 4) : Statement (.sendC id len) := by
  intro h
  simp_all [Instr.wellFormed, encode, decode, decodeCommand]

theorem sendE (id : BitVec 6) (len : BitVec 4) : Statement (.sendE id len) := by
  intro h
  simp_all [Instr.wellFormed, encode, decode, decodeCommand]

theorem recvC (id : BitVec 6) : Statement (.recvC id) := by
  intro h
  simp_all [Instr.wellFormed, encode, decode, decodeCommand]

theorem recvE (id : BitVec 6) : Statement (.recvE id) := by
  intro h
  simp_all [Instr.wellFormed, encode, decode, decodeCommand]

theorem recvCE (id : BitVec 6) : Statement (.recvCE id) := by
  intro h
  simp_all [Instr.wellFormed, encode, decode, decodeCommand]

theorem dreq (len : BitVec 4) : Statement (.dreq len) := by
  intro h
  simp_all [Instr.wellFormed, encode, decode, decodeCommand]

theorem cfg (r : Csr) : Statement (.cfg r) := by
  intro h
  simp_all [Instr.wellFormed, encode, decode, decodeCommand]

theorem rst : Statement .rst := by
  intro h
  simp_all [Instr.wellFormed, encode, decode, decodeCommand]

theorem sf (n : BitVec 4) (data : List Byte) : Statement (.sf n data) := by
  intro h
  exact decodeResponse_pciByte _ _ (by simpa [Instr.wellFormed] using h)

theorem ff (hi : BitVec 4) (data : List Byte) : Statement (.ff hi data) := by
  intro h
  exact decodeResponse_pciByte _ _ (by simpa [Instr.wellFormed] using h)

theorem cf (seq : BitVec 4) (data : List Byte) : Statement (.cf seq data) := by
  intro h
  exact decodeResponse_pciByte _ _ (by simpa [Instr.wellFormed] using h)

theorem fc (sub : BitVec 4) (data : List Byte) : Statement (.fc sub data) := by
  intro h
  exact decodeResponse_pciByte _ _ (by simpa [Instr.wellFormed] using h)

theorem pciRsv4 (v : BitVec 4) (data : List Byte) : Statement (.pciRsv4 v data) := by
  intro h
  exact decodeResponse_pciByte _ _ (by simpa [Instr.wellFormed] using h)

theorem pciRsv5 (v : BitVec 4) (data : List Byte) : Statement (.pciRsv5 v data) := by
  intro h
  exact decodeResponse_pciByte _ _ (by simpa [Instr.wellFormed] using h)

theorem pciRsv6 (v : BitVec 4) (data : List Byte) : Statement (.pciRsv6 v data) := by
  intro h
  exact decodeResponse_pciByte _ _ (by simpa [Instr.wellFormed] using h)

theorem pciRsv7 (v : BitVec 4) (data : List Byte) : Statement (.pciRsv7 v data) := by
  intro h
  exact decodeResponse_pciByte _ _ (by simpa [Instr.wellFormed] using h)

theorem pciRsv8 (v : BitVec 4) (data : List Byte) : Statement (.pciRsv8 v data) := by
  intro h
  exact decodeResponse_pciByte _ _ (by simpa [Instr.wellFormed] using h)

theorem pciRsv9 (v : BitVec 4) (data : List Byte) : Statement (.pciRsv9 v data) := by
  intro h
  exact decodeResponse_pciByte _ _ (by simpa [Instr.wellFormed] using h)

theorem pciRsvA (v : BitVec 4) (data : List Byte) : Statement (.pciRsvA v data) := by
  intro h
  exact decodeResponse_pciByte _ _ (by simpa [Instr.wellFormed] using h)

theorem pciRsvB (v : BitVec 4) (data : List Byte) : Statement (.pciRsvB v data) := by
  intro h
  exact decodeResponse_pciByte _ _ (by simpa [Instr.wellFormed] using h)

theorem pciRsvC (v : BitVec 4) (data : List Byte) : Statement (.pciRsvC v data) := by
  intro h
  exact decodeResponse_pciByte _ _ (by simpa [Instr.wellFormed] using h)

theorem pciRsvD (v : BitVec 4) (data : List Byte) : Statement (.pciRsvD v data) := by
  intro h
  exact decodeResponse_pciByte _ _ (by simpa [Instr.wellFormed] using h)

theorem pciRsvE (v : BitVec 4) (data : List Byte) : Statement (.pciRsvE v data) := by
  intro h
  exact decodeResponse_pciByte _ _ (by simpa [Instr.wellFormed] using h)

theorem pciRsvF (v : BitVec 4) (data : List Byte) : Statement (.pciRsvF v data) := by
  intro h
  exact decodeResponse_pciByte _ _ (by simpa [Instr.wellFormed] using h)

end Sys2Proof.Laws.RoundTrip
end

