-- ==== Sys2Proof/Laws/Step.lean ====
section
/-! SUPPORT. What one step can do, said once: the inversion of fetching, of the two polls, of the received frames,
and of a step that answers a next state. -/

namespace Sys2Proof.Machine

@[simp] theorem decodeCommand_rst : decodeCommand 0xC000 = .ok .rst := by decide

@[simp] theorem decodeCommand_rst_lit : decodeCommand 49152#16 = .ok .rst := by decide

/-- The reset word is the only word of RST (rule R194). -/
theorem decodeCommand_eq_rst {w : Word} (h : decodeCommand w = .ok .rst) : w = 0xC000 := by
  rw [← packWord_fields w]
  simp only [decodeCommand] at h
  split at h <;> try simp at h
  · split at h <;> simp at h
  · rename_i hop
    have h1 : fieldOp w = 0xC := BitVec.eq_of_toNat_eq (by simpa using hop)
    have h2 : fieldLen w = 0 := BitVec.eq_of_toNat_eq (by simpa using h.2.2)
    simp [h.1, h.2.1, h1, h2, packWord]

/-! ### The polls -/

/-- Everything an initial-response poll can do (rules R155 to R157). -/
theorem pollResponse_cases (s : State) :
    ((recvParsed diagRespId .classic s).kind ≠ .none ∧ pollResponse s = .settled (.next
      (if s.att.toNat + 1 < s.csr.respPolls.toNat then afterResponsePoll s
        else failExchange (recvParsed diagRespId .classic s).kind (afterResponsePoll s)))) ∨
    ((recvParsed diagRespId .classic s).kind = .none ∧
      addressed s.csr.nad (recvParsed diagRespId .classic s).data = false ∧
      pollResponse s = .settled (.next (failExchange .protocol (afterResponsePoll s)))) ∨
    ∃ t v data, (recvParsed diagRespId .classic s).kind = .none ∧
      (recvParsed diagRespId .classic s).data = s.csr.nad :: pciByte t v :: data ∧ data.length ≤ frameDataMax ∧
      pollResponse s = .run (frameOfType t v data) (afterResponsePoll s) := by
  cases hk : (recvParsed diagRespId .classic s).kind <;> try (refine .inl ⟨by simp, ?_⟩; simp [pollResponse, hk]; done)
  cases ha : addressed s.csr.nad (recvParsed diagRespId .classic s).data
  · exact .inr (.inl ⟨rfl, rfl, by simp [pollResponse, hk, ha]⟩)
  · obtain ⟨b, rest, hd⟩ := addressed_iff.mp ha
    have hl : rest.length ≤ frameDataMax := by
      have := parse_data_length (computePid diagRespId) (rxAnswer recvMax (header diagRespId s)) .classic
      rw [show parse _ _ _ = recvParsed diagRespId .classic s from rfl, hd] at this
      simp [frameDataMax] at this ⊢; omega
    refine .inr (.inr ⟨hiNibble b, loNibble b, rest, rfl, by rw [hd, pciByte_nibbles], hl, ?_⟩)
    simp [pollResponse, hk, hd, addressed, decodeResponse, hl]

/-- Everything a Consecutive-Frame poll can do (rules R164, R165, R167). -/
theorem pollConsecutive_cases (s : State) :
    (((recvParsed diagRespId .classic s).kind ≠ .none ∨
        addressed s.csr.nad (recvParsed diagRespId .classic s).data = false) ∧
      pollConsecutive s = .settled (.next (unusablePoll (afterCfPoll s)))) ∨
    ∃ t v data, (recvParsed diagRespId .classic s).kind = .none ∧
      (recvParsed diagRespId .classic s).data = s.csr.nad :: pciByte t v :: data ∧ data.length ≤ frameDataMax ∧
      pollConsecutive s = .run (frameOfType t v data) (afterCfPoll s) := by
  cases hk : (recvParsed diagRespId .classic s).kind <;>
    try (refine .inl ⟨.inl (by simp), ?_⟩; simp [pollConsecutive, hk]; done)
  cases ha : addressed s.csr.nad (recvParsed diagRespId .classic s).data
  · exact .inl ⟨.inr rfl, by simp [pollConsecutive, hk, ha]⟩
  · obtain ⟨b, rest, hd⟩ := addressed_iff.mp ha
    have hl : rest.length ≤ frameDataMax := by
      have := parse_data_length (computePid diagRespId) (rxAnswer recvMax (header diagRespId s)) .classic
      rw [show parse _ _ _ = recvParsed diagRespId .classic s from rfl, hd] at this
      simp [frameDataMax] at this ⊢; omega
    refine .inr ⟨hiNibble b, loNibble b, rest, rfl, by rw [hd, pciByte_nibbles], hl, ?_⟩
    simp [pollConsecutive, hk, hd, addressed, decodeResponse, hl]

/-! ### The received frames -/

/-- What a received frame does, by its type (rule R87). -/
theorem exec_frameOfType (t v : BitVec 4) (data : List Byte) (s : State) :
    exec (frameOfType t v data) s = .next (
      if t = 0 then (if inReassembly s then unusablePoll s else acceptSingle v data s)
      else if t = 1 then (if inReassembly s then unusablePoll s else acceptFirst v data s)
      else if t = 2 then (if inReassembly s then acceptConsecutive data s else failExchange .protocol s)
      else rejectFrame s) := by
  have : t = 0 ∨ t = 1 ∨ t = 2 ∨ t = 3 ∨ t = 4 ∨ t = 5 ∨ t = 6 ∨ t = 7 ∨ t = 8 ∨ t = 9 ∨ t = 10 ∨ t = 11 ∨ t = 12 ∨
      t = 13 ∨ t = 14 ∨ t = 15 := by revert t; decide
  rcases this with h | h | h | h | h | h | h | h | h | h | h | h | h | h | h | h <;> subst h <;> rfl

/-- What a received frame does as the first response: it fails, completes, or starts a reassembly. -/
theorem exec_frame_first (t v : BitVec 4) (data : List Byte) {s : State} (h : s.status.tstate = .awaitingResponse) :
    exec (frameOfType t v data) s = .next (failExchange .protocol s) ∨
    (v.toNat ≤ data.length ∧
      exec (frameOfType t v data) s = .next (finishOk (setTState .done (setResult (data.take v.toNat) s)))) ∨
    ∃ lo seed, data = lo :: seed ∧ exec (frameOfType t v data) s = .next (completionTest (flowControl
      (setTState .reassembling { s with tlen := v ++ lo, coll := seed.take 5, retry := 0 }))) := by
  have hr : inReassembly s = false := by simp [inReassembly, h]
  rw [exec_frameOfType, hr]
  simp only [Bool.false_eq_true, if_false]
  split
  · unfold acceptSingle; split
    · exact .inl rfl
    · exact .inr (.inl ⟨by omega, rfl⟩)
  · split
    · cases data with
      | nil => exact .inl rfl
      | cons lo seed => exact .inr (.inr ⟨lo, seed, rfl, rfl⟩)
    · split
      · exact .inl rfl
      · exact .inl (by simp [rejectFrame, hr])

/-- What a received frame does during reassembly: it is unusable, or it is a Consecutive Frame with data. -/
theorem exec_frame_reassembling (t v : BitVec 4) (data : List Byte) {s : State} (h : s.status.tstate = .reassembling) :
    exec (frameOfType t v data) s = .next (unusablePoll s) ∨
    (t = 2 ∧ data ≠ [] ∧ exec (frameOfType t v data) s =
      .next (completionTest { s with coll := s.coll ++ data.take 6, retry := 0 })) := by
  have hr : inReassembly s = true := by simp [inReassembly, h]
  rw [exec_frameOfType, hr]
  simp only [if_true]
  split
  · exact .inl rfl
  · split
    · exact .inl rfl
    · split
      · cases data with
        | nil => exact .inl rfl
        | cons b rest => exact .inr ⟨‹_›, by simp, rfl⟩
      · exact .inl (by simp [rejectFrame, hr])

/-- What no received frame changes (rules R23, R30, R35, R45). -/
theorem exec_frame_kept (ty v : BitVec 4) (data : List Byte) {s t : State}
    (h : exec (frameOfType ty v data) s = .next t) : Kept s t := by
  rw [exec_frameOfType] at h
  cases h
  split
  · split
    · exact unusablePoll_kept s
    · unfold acceptSingle; split
      · exact failExchange_kept _ _
      · exact ⟨rfl, rfl, rfl, rfl, rfl, rfl, [], (List.append_nil _).symm⟩
  · split
    · split
      · exact unusablePoll_kept s
      · cases data with
        | nil => exact failExchange_kept _ _
        | cons lo seed =>
          let u : State := setTState .reassembling { s with tlen := v ++ lo, coll := seed.take 5, retry := 0 }
          have hu : Kept s u := ⟨rfl, rfl, rfl, rfl, rfl, rfl, [], (List.append_nil _).symm⟩
          exact hu.trans ((flowControl_kept u).trans (completionTest_kept (flowControl u)))
    · split
      · split
        · cases data with
          | nil => exact unusablePoll_kept s
          | cons b rest =>
            let u : State := { s with coll := s.coll ++ (b :: rest).take 6, retry := 0 }
            have hu : Kept s u := ⟨rfl, rfl, rfl, rfl, rfl, rfl, [], (List.append_nil _).symm⟩
            exact hu.trans (completionTest_kept u)
        · exact failExchange_kept _ _
      · unfold rejectFrame; split
        · exact unusablePoll_kept s
        · exact failExchange_kept _ _

/-! ### The block's own step -/

/-- What the block's own step can do when it answers a next state. -/
inductive BlockMove (s : State) : State → Prop where
  /-- An idle block stays as it is (rule R228). -/
  | idle (h : s.status.busy = false) : BlockMove s s
  /-- A busy block whose word spells no command. -/
  | refused (h : s.status.busy = true) (e : Reject) (hd : decodeCommand s.cur = .error e) : BlockMove s (refuse s)
  /-- The body of the command in progress. -/
  | body (h : s.status.busy = true) (i : Instr) (hd : decodeCommand s.cur = .ok i)
      (np : (∃ len, i = .dreq len) → s.status.tstate ≠ .awaitingResponse ∧ s.status.tstate ≠ .reassembling)
      (t : State) (he : exec i s = .next t) : BlockMove s t
  /-- An initial-response poll (rule R155). -/
  | response (h : s.status.busy = true) (len : BitVec 4) (hd : decodeCommand s.cur = .ok (.dreq len))
      (hs : s.status.tstate = .awaitingResponse) (t : State)
      (he : (∃ j u, pollResponse s = .run j u ∧ exec j u = .next t) ∨ pollResponse s = .settled (.next t)) :
      BlockMove s t
  /-- A Consecutive-Frame poll (rule R164). -/
  | consecutive (h : s.status.busy = true) (len : BitVec 4) (hd : decodeCommand s.cur = .ok (.dreq len))
      (hs : s.status.tstate = .reassembling) (t : State)
      (he : (∃ j u, pollConsecutive s = .run j u ∧ exec j u = .next t) ∨ pollConsecutive s = .settled (.next t)) :
      BlockMove s t

/-- Run what was fetched. -/
def runFetched (f : Fetched) : Host.Outcome State Fault Refusal :=
  match f with
  | .run i t => exec i t
  | .settled o => o

theorem step_eq (s : State) : step s = runFetched (fetch s) := rfl

theorem runFetched_next {f : Fetched} {t : State} (h : runFetched f = .next t) :
    (∃ j u, f = .run j u ∧ exec j u = .next t) ∨ f = .settled (.next t) := by
  cases f with
  | run j u => exact .inl ⟨j, u, rfl, h⟩
  | settled o => exact .inr (by rw [show o = .next t from h])

/-- What is fetched for a command in progress: a poll of DREQ or the body (rule R21). -/
theorem fetchBody_cases (i : Instr) (s : State) :
    (∃ len, i = .dreq len ∧ s.status.tstate = .awaitingResponse ∧ fetchBody i s = pollResponse s) ∨
    (∃ len, i = .dreq len ∧ s.status.tstate = .reassembling ∧ fetchBody i s = pollConsecutive s) ∨
    (((∃ len, i = .dreq len) → s.status.tstate ≠ .awaitingResponse ∧ s.status.tstate ≠ .reassembling) ∧
      fetchBody i s = .run i s) := by
  unfold fetchBody
  split
  · exact .inl ⟨_, rfl, ‹_›, rfl⟩
  · exact .inr (.inl ⟨_, rfl, ‹_›, rfl⟩)
  · rename_i h1 h2
    refine .inr (.inr ⟨?_, rfl⟩)
    rintro ⟨len, rfl⟩
    exact ⟨fun hh => h1 len rfl hh, fun hh => h2 len rfl hh⟩

theorem fetchBlock_next {s t : State} (h : runFetched (fetchBlock s) = .next t) : BlockMove s t := by
  unfold fetchBlock at h
  split at h
  · rename_i hb
    split at h
    · rename_i i hd
      rcases fetchBody_cases i s with ⟨len, rfl, hs, hf⟩ | ⟨len, rfl, hs, hf⟩ | ⟨np, hf⟩
      · rw [hf] at h; exact .response hb len hd hs t (runFetched_next h)
      · rw [hf] at h; exact .consecutive hb len hd hs t (runFetched_next h)
      · rw [hf] at h; exact .body hb i hd np t h
    · rename_i e hd; cases h; exact .refused hb e hd
  · rename_i hb; cases h; exact .idle (by simpa using hb)

/-- Everything a step that answers a next state can have done. -/
theorem step_next {s t : State} (h : step s = .next t) :
    (∃ i b rest, s.host = .write i b :: rest ∧ t = hostWrite i b { s with host := rest }) ∨
    (∃ rest, s.host = .issue 0xC000 :: rest ∧ t = resetBlock { s with host := rest }) ∨
    (∃ w rest, s.host = .issue w :: rest ∧ w ≠ 0xC000 ∧ s.status.busy = true ∧
      t = setOverrun { s with host := rest }) ∨
    (∃ w rest, s.host = .issue w :: rest ∧ w ≠ 0xC000 ∧ s.status.busy = false ∧
      dispatch w { s with host := rest } = .next t) ∨
    (∃ u, (s.host = [] ∧ u = s ∨ ∃ rest, s.host = .run :: rest ∧ u = { s with host := rest }) ∧ BlockMove u t) := by
  rw [step_eq] at h
  unfold fetch at h
  split at h
  · exact .inr (.inr (.inr (.inr ⟨s, .inl ⟨‹_›, rfl⟩, fetchBlock_next h⟩)))
  · exact .inr (.inr (.inr (.inr ⟨_, .inr ⟨_, ‹_›, rfl⟩, fetchBlock_next h⟩)))
  · cases h; exact .inl ⟨_, _, _, ‹_›, rfl⟩
  · rename_i w rest hh
    unfold commandArrives at h
    split at h
    · rename_i hd
      cases h
      obtain rfl := decodeCommand_eq_rst hd
      exact .inr (.inl ⟨rest, hh, rfl⟩)
    · rename_i hn
      have hw : w ≠ 0xC000 := by rintro rfl; exact hn decodeCommand_rst
      simp only [runFetched] at h
      split at h
      · cases h; exact .inr (.inr (.inl ⟨w, rest, hh, hw, ‹_›, rfl⟩))
      · rename_i hb; exact .inr (.inr (.inr (.inl ⟨w, rest, hh, hw, by simpa using hb, h⟩)))

/-- Everything a dispatch that answers a next state can have done (rule R190). -/
theorem dispatch_next {w : Word} {s t : State} (h : dispatch w s = .next t) :
    (∃ e, decodeCommand w = .error e ∧ t = refuse (startCommand w s)) ∨
    (∃ i, decodeCommand w = .ok i ∧ (operands (operandCount i) s).isSome = true ∧ t = startCommand w s) := by
  unfold dispatch at h
  split at h
  · cases h; exact .inl ⟨_, ‹_›, rfl⟩
  · obtain ⟨l, hl, rfl⟩ := withOperands_next h
    exact .inr ⟨_, ‹_›, by simp [hl], rfl⟩

/-! ### The commands -/

/-- What a command's meaning can do when it answers a next state, RST and the received frames aside. -/
theorem exec_command {i : Instr} {s t : State} (h : exec i s = .next t) (hf : isFrame i = false) (hr : i ≠ .rst) :
    (∃ p b, (i = .pid p ∨ (∃ l, i = .cksc l) ∨ ∃ l, i = .ckse p l) ∧ (t = finishOk { s with rbyte := b } ∧ (∃ l, i = .cksc l) ∨
      t = finishOk { s with rbyte := b, rpid := computePid p } ∧ ∀ l, i ≠ .cksc l)) ∨
    (∃ id k data, ((∃ l, i = .fencC id l) ∨ ∃ l, i = .fencE id l) ∧ data.length ≤ 15 ∧ t = encodeFrame id k data s) ∨
    (∃ id p bytes, ((∃ l, i = .fdecC id l) ∨ (∃ l, i = .fdecE id l) ∨ ∃ l, i = .fdecCE id l) ∧ bytes.length ≤ 15 ∧
      t = decodeFrame id p bytes s) ∨
    (∃ id p bytes, ((∃ l, i = .scanC id l) ∨ (∃ l, i = .scanE id l) ∨ ∃ l, i = .scanCE id l) ∧ t = scanCapture id p bytes s) ∨
    (∃ id, i = .hdr id ∧ t = finishOk (header id s)) ∨
    (∃ id k data, ((∃ l, i = .sendC id l) ∨ ∃ l, i = .sendE id l) ∧ t = finishOk (send id data k s)) ∨
    (∃ id p, (i = .recvC id ∨ i = .recvE id ∨ i = .recvCE id) ∧ t = pollSlave id p s) ∨
    (∃ l body, i = .dreq l ∧ t = sendRequest body s) ∨
    (∃ r v, i = .cfg r ∧ (csrLegal r v = true ∧ t = finishOk { s with csr := csrWrite r v s.csr } ∨ t = refuse s)) := by
  have len15 : ∀ {l : BitVec 4} {d : List Byte}, operands l.toNat s = some d → d.length ≤ 15 := by
    intro l d hd
    have := (operands_eq_some.mp hd).1
    have := l.isLt
    omega
  cases i <;> first | exact absurd rfl hr | (simp [isFrame, encode] at hf; done) | skip
  case pid p => cases h; exact .inl ⟨p, _, .inl rfl, .inr ⟨rfl, by simp⟩⟩
  case cksc l =>
    obtain ⟨d, -, rfl⟩ := withOperands_next h
    exact .inl ⟨0, _, .inr (.inl ⟨l, rfl⟩), .inl ⟨rfl, l, rfl⟩⟩
  case ckse p l =>
    obtain ⟨d, -, rfl⟩ := withOperands_next h
    exact .inl ⟨p, _, .inr (.inr ⟨l, rfl⟩), .inr ⟨rfl, by simp⟩⟩
  case fencC id l =>
    obtain ⟨d, hd, rfl⟩ := withOperands_next h
    exact .inr (.inl ⟨id, _, d, .inl ⟨l, rfl⟩, len15 hd, rfl⟩)
  case fencE id l =>
    obtain ⟨d, hd, rfl⟩ := withOperands_next h
    exact .inr (.inl ⟨id, _, d, .inr ⟨l, rfl⟩, len15 hd, rfl⟩)
  case fdecC id l =>
    obtain ⟨d, hd, rfl⟩ := withOperands_next h
    exact .inr (.inr (.inl ⟨id, _, d, .inl ⟨l, rfl⟩, len15 hd, rfl⟩))
  case fdecE id l =>
    obtain ⟨d, hd, rfl⟩ := withOperands_next h
    exact .inr (.inr (.inl ⟨id, _, d, .inr (.inl ⟨l, rfl⟩), len15 hd, rfl⟩))
  case fdecCE id l =>
    obtain ⟨d, hd, rfl⟩ := withOperands_next h
    exact .inr (.inr (.inl ⟨id, _, d, .inr (.inr ⟨l, rfl⟩), len15 hd, rfl⟩))
  case scanC id l =>
    obtain ⟨d, -, rfl⟩ := withOperands_next h
    exact .inr (.inr (.inr (.inl ⟨id, _, d, .inl ⟨l, rfl⟩, rfl⟩)))
  case scanE id l =>
    obtain ⟨d, -, rfl⟩ := withOperands_next h
    exact .inr (.inr (.inr (.inl ⟨id, _, d, .inr (.inl ⟨l, rfl⟩), rfl⟩)))
  case scanCE id l =>
    obtain ⟨d, -, rfl⟩ := withOperands_next h
    exact .inr (.inr (.inr (.inl ⟨id, _, d, .inr (.inr ⟨l, rfl⟩), rfl⟩)))
  case hdr id => cases h; exact .inr (.inr (.inr (.inr (.inl ⟨id, rfl, rfl⟩))))
  case sendC id l =>
    obtain ⟨d, -, rfl⟩ := withOperands_next h
    exact .inr (.inr (.inr (.inr (.inr (.inl ⟨id, _, d, .inl ⟨l, rfl⟩, rfl⟩)))))
  case sendE id l =>
    obtain ⟨d, -, rfl⟩ := withOperands_next h
    exact .inr (.inr (.inr (.inr (.inr (.inl ⟨id, _, d, .inr ⟨l, rfl⟩, rfl⟩)))))
  case recvC id => cases h; exact .inr (.inr (.inr (.inr (.inr (.inr (.inl ⟨id, _, .inl rfl, rfl⟩))))))
  case recvE id => cases h; exact .inr (.inr (.inr (.inr (.inr (.inr (.inl ⟨id, _, .inr (.inl rfl), rfl⟩))))))
  case recvCE id => cases h; exact .inr (.inr (.inr (.inr (.inr (.inr (.inl ⟨id, _, .inr (.inr rfl), rfl⟩))))))
  case dreq l =>
    obtain ⟨d, -, rfl⟩ := withOperands_next h
    exact .inr (.inr (.inr (.inr (.inr (.inr (.inr (.inl ⟨l, d, rfl, rfl⟩)))))))
  case cfg r =>
    obtain ⟨d, -, rfl⟩ := withOperands_next h
    refine .inr (.inr (.inr (.inr (.inr (.inr (.inr (.inr ⟨r, cfgValue d, rfl, ?_⟩)))))))
    cases hl : csrLegal r (cfgValue d)
    · exact .inr (by simp)
    · exact .inl ⟨rfl, by simp⟩

/-- A decoded command word is no frame. -/
theorem isFrame_of_decodeCommand {w : Word} {i : Instr} (h : decodeCommand w = .ok i) : isFrame i = false := by
  simp only [decodeCommand] at h
  split at h
  all_goals try (split at h)
  all_goals try simp only [noId_eq_ok, noKind_eq_ok, lenIn_eq_ok, txKind_eq_ok, rxKind_eq_ok, reduceCtorEq,
    Except.ok.injEq] at h
  all_goals first
    | (rcases h with h | h | h <;> (rw [← h.2.2]; rfl))
    | (rcases h with h | h <;> (rw [← h.2.2]; rfl))
    | (rw [← h.2.2.2]; rfl)
    | (rw [← h.2.2]; rfl)

/-- A received frame is a frame of some type. -/
theorem frameOfType_of_isFrame {i : Instr} (h : isFrame i = true) : ∃ t v data, i = frameOfType t v data := by
  cases i <;> first | (simp [isFrame, encode] at h; done) | skip
  case sf v d => exact ⟨0, v, d, rfl⟩
  case ff v d => exact ⟨1, v, d, rfl⟩
  case cf v d => exact ⟨2, v, d, rfl⟩
  case fc v d => exact ⟨3, v, d, rfl⟩
  case pciRsv4 v d => exact ⟨4, v, d, rfl⟩
  case pciRsv5 v d => exact ⟨5, v, d, rfl⟩
  case pciRsv6 v d => exact ⟨6, v, d, rfl⟩
  case pciRsv7 v d => exact ⟨7, v, d, rfl⟩
  case pciRsv8 v d => exact ⟨8, v, d, rfl⟩
  case pciRsv9 v d => exact ⟨9, v, d, rfl⟩
  case pciRsvA v d => exact ⟨10, v, d, rfl⟩
  case pciRsvB v d => exact ⟨11, v, d, rfl⟩
  case pciRsvC v d => exact ⟨12, v, d, rfl⟩
  case pciRsvD v d => exact ⟨13, v, d, rfl⟩
  case pciRsvE v d => exact ⟨14, v, d, rfl⟩
  case pciRsvF v d => exact ⟨15, v, d, rfl⟩

/-- What no instruction but RST changes, CFG's write of a CSR aside (rules R23, R29, R35, R45). -/
theorem exec_kept {i : Instr} {s t : State} (h : exec i s = .next t) (hr : i ≠ .rst) :
    (t.csr = s.csr ∨ ∃ r, i = .cfg r) ∧ t.status.ovr = s.status.ovr ∧ t.dbuf = s.dbuf ∧ t.cur = s.cur ∧
      t.host = s.host ∧ ∃ es, t.trace = s.trace ++ es := by
  by_cases hf : isFrame i = true
  · obtain ⟨ty, v, d, rfl⟩ := frameOfType_of_isFrame hf
    have hk := exec_frame_kept ty v d h
    exact ⟨.inl hk.csr, hk.ovr, hk.dbuf, hk.cur, hk.host, hk.trace⟩
  · rcases exec_command h (by simpa using hf) hr with ⟨_, _, -, ⟨rfl, -⟩ | ⟨rfl, -⟩⟩ | ⟨_, _, _, -, -, rfl⟩ |
      ⟨_, _, _, -, -, rfl⟩ | ⟨_, _, _, -, rfl⟩ | ⟨_, -, rfl⟩ | ⟨_, _, _, -, rfl⟩ | ⟨_, _, -, rfl⟩ | ⟨_, _, -, rfl⟩ |
      ⟨r, v, hi, ⟨-, rfl⟩ | rfl⟩
    · simp
    · simp
    · simp [encodeFrame]
    · simp [decodeFrame]
    · simp [scanCapture, deliver]
    · simp
    · simp
    · simp [pollSlave, deliver]
    · simp [sendRequest]
    · simp [hi]
    · simp [refuse]

/-- Where the host lets the block move, a step is the block's own. -/
theorem step_of_run {s : State} {rest : List HostAction} (h : LetsBlockRun rest s) :
    step s = runFetched (fetchBlock { s with host := rest }) := by
  rw [step_eq]; unfold fetch
  rcases h with ⟨h, rfl⟩ | h <;> rw [h]
  simp only [← h]

/-- A step of a DREQ that awaits its response is a poll. -/
theorem step_of_awaiting {s : State} {rest : List HostAction} (h : Exchanging .awaitingResponse rest s) :
    step s = runFetched (pollResponse { s with host := rest }) := by
  obtain ⟨h1, h2, h3, len, h4⟩ := h
  simp [step_of_run h1, fetchBlock, h2, h4, fetchBody, h3]

/-- A step of a DREQ in reassembly is a poll. -/
theorem step_of_reassembling {s : State} {rest : List HostAction} (h : Exchanging .reassembling rest s) :
    step s = runFetched (pollConsecutive { s with host := rest }) := by
  obtain ⟨h1, h2, h3, len, h4⟩ := h
  simp [step_of_run h1, fetchBlock, h2, h4, fetchBody, h3]

/-- A step the block makes leaves only `.run` actions where there were only such. -/
theorem onlyRuns_rest {s : State} {rest : List HostAction} (h : LetsBlockRun rest s) (hr : OnlyRuns s) :
    ∀ a ∈ rest, a = .run := by
  rcases h with ⟨-, rfl⟩ | h
  · simp
  · exact fun a ha => hr a (by rw [h]; exact List.mem_cons_of_mem _ ha)

/-- Where only `.run` actions are pending, the host lets the block move. -/
theorem letsBlockRun_of_onlyRuns {s : State} (hr : OnlyRuns s) : LetsBlockRun s.host.tail s := by
  unfold LetsBlockRun
  cases h : s.host with
  | nil => simp
  | cons a rest => rw [hr a (by simp [h])]; simp

end Sys2Proof.Machine
end

