-- ==== Sys2Proof/Tests/Slice0.lean ====
section
/-! SUPPORT. Tests of the model, their expected results from spec/95_test_vectors.md and the encoding tables, and a
witness of the hypotheses of every statement that has some. -/

namespace Sys2Proof.Tests

open Sys2Proof Sys2Proof.Machine

/-! ### A small machine -/

/-- The set-up of section 2.10: NAD 0x12, Flow-Control profile, 20 retries, one initial poll. -/
def csrs : Csrs :=
  { nad := 0x12, profile := 0, maxRetries := 20, fcBs := 0, fcStmin := 0, respTmo := 100, cfTmo := 50, appTmo := 25,
    respPolls := 1, ifg := 4 }

/-- An idle block with `bytes` in `DBUF` and the transceiver's answers listed. -/
def ready (bytes : List Byte) (answers : List (List Byte)) : State :=
  { State.reset with
    csr := csrs, dbuf := Memory.ofBytesAt 0 bytes, xcvr := { rx := answers, bsi := [0, 0, 0, 0, 0, 0], draws := 0 } }

/-- A DREQ in progress in transport state `ts`, its next polls answered by `answers`. -/
def polled (ts : TState) (answers : List (List Byte)) : State :=
  { ready [0x21, 0x01] answers with
    cur := 0xA002, status := { Status.reset with busy := true, tstate := ts } }

/-- A reassembly of 10 bytes with the 5 seeded bytes of vector D24. -/
def reassembly (answers : List (List Byte)) : State :=
  { polled .reassembling answers with tlen := 10, coll := [0x61, 0x01, 0xB0, 0xB1, 0xB2] }

/-- What holds of the next state, if there is one. -/
def gives (o : Host.Outcome State Fault Refusal) (p : State → Bool) : Bool :=
  match o with
  | .next t => p t
  | .fault _ | .refused _ => false

/-- What holds after `k` moves. -/
def after (k : Nat) (s : State) (p : State → Bool) : Bool :=
  match moves k s with
  | some t => p t
  | none => false

/-- The answer has stopped as `UNDEF_OPERAND`. -/
def undefined (o : Host.Outcome State Fault Refusal) : Bool :=
  match o with
  | .fault .undefOperand => true
  | .next _ | .refused _ => false

/-- The bytes of `RBUF[0..RLEN)`. -/
def result (s : State) : Option (List Byte) := s.rbuf.readSeq 0 s.rlen.toNat

/-! ### Ill-formed terms: the check of WellFormed refuses each (rule R75; rules R89, R112) -/

theorem test_wf_transmit_len : (Instr.cksc 9).wellFormed = false ∧ (Instr.ckse 0x3C 9).wellFormed = false ∧
    (Instr.fencC 0 9).wellFormed = false ∧ (Instr.fencE 0 9).wellFormed = false ∧
    (Instr.sendC 0 9).wellFormed = false ∧ (Instr.sendE 0 15).wellFormed = false := by decide
theorem test_wf_fdec_len : (Instr.fdecC 0 0).wellFormed = false ∧ (Instr.fdecE 0 10).wellFormed = false ∧
    (Instr.fdecCE 0 0).wellFormed = false ∧ (Instr.fdecCE 0 9).wellFormed = true := by decide
theorem test_wf_scan_len : (Instr.scanC 0 12).wellFormed = false ∧ (Instr.scanE 0 12).wellFormed = false ∧
    (Instr.scanCE 0 12).wellFormed = false ∧ (Instr.scanCE 0 11).wellFormed = true := by decide
theorem test_wf_dreq_len : (Instr.dreq 0).wellFormed = false ∧ (Instr.dreq 7).wellFormed = false := by decide
theorem test_wf_frame_length : ∀ t v, (frameOfType t v [0, 1, 2, 3, 4, 5, 6]).wellFormed = false := by decide

/-! ### Decoding: words written out bit by bit (`OP ID KIND LEN`, rules R71 to R76; `type value`, rule R82) -/

theorem test_decode_codec :
    decode (.command 0b0001_111101_00_0000) = .ok (.pid 0x3D) ∧
    decode (.command 0b0010_000000_00_0011) = .ok (.cksc 3) ∧
    decode (.command 0b0011_111100_00_0011) = .ok (.ckse 0x3C 3) ∧
    decode (.command 0b0100_010000_00_0010) = .ok (.fencC 0x10 2) ∧
    decode (.command 0b0100_010000_01_0010) = .ok (.fencE 0x10 2) ∧
    decode (.command 0b0101_010000_00_0011) = .ok (.fdecC 0x10 3) ∧
    decode (.command 0b0101_010000_01_0011) = .ok (.fdecE 0x10 3) ∧
    decode (.command 0b0101_010000_10_0011) = .ok (.fdecCE 0x10 3) ∧
    decode (.command 0b0110_010000_00_0101) = .ok (.scanC 0x10 5) ∧
    decode (.command 0b0110_010000_01_0101) = .ok (.scanE 0x10 5) ∧
    decode (.command 0b0110_010000_10_0101) = .ok (.scanCE 0x10 5) := by decide
theorem test_decode_bus :
    decode (.command 0b0111_111101_00_0000) = .ok (.hdr 0x3D) ∧
    decode (.command 0b1000_111100_00_1000) = .ok (.sendC 0x3C 8) ∧
    decode (.command 0b1000_010000_01_0010) = .ok (.sendE 0x10 2) ∧
    decode (.command 0b1001_111101_00_0000) = .ok (.recvC 0x3D) ∧
    decode (.command 0b1001_010000_01_0000) = .ok (.recvE 0x10) ∧
    decode (.command 0b1001_010000_10_0000) = .ok (.recvCE 0x10) ∧
    decode (.command 0b1010_000000_00_0010) = .ok (.dreq 2) ∧
    decode (.command 0b1100_000000_00_0000) = .ok .rst := by decide
theorem test_decode_cfg :
    decode (.command 0xB000) = .ok (.cfg .nad) ∧ decode (.command 0xB040) = .ok (.cfg .profile) ∧
    decode (.command 0xB080) = .ok (.cfg .maxRetries) ∧ decode (.command 0xB0C0) = .ok (.cfg .fcBs) ∧
    decode (.command 0xB100) = .ok (.cfg .fcStmin) ∧ decode (.command 0xB140) = .ok (.cfg .respTmo) ∧
    decode (.command 0xB180) = .ok (.cfg .cfTmo) ∧ decode (.command 0xB1C0) = .ok (.cfg .appTmo) ∧
    decode (.command 0xB200) = .ok (.cfg .respPolls) ∧ decode (.command 0b1011_001001_00_0000) = .ok (.cfg .ifg) := by
  decide
theorem test_decode_frames :
    decode (.response [0b0000_0011, 0x61]) = .ok (.sf 3 [0x61]) ∧
    decode (.response [0b0001_1111, 0xFF]) = .ok (.ff 0xF [0xFF]) ∧
    decode (.response [0b0010_0001, 0x06]) = .ok (.cf 1 [0x06]) ∧
    decode (.response [0b0011_0000, 0x00]) = .ok (.fc 0 [0x00]) ∧
    decode (.response [0b0100_0001]) = .ok (.pciRsv4 1 []) ∧ decode (.response [0b0101_0010]) = .ok (.pciRsv5 2 []) ∧
    decode (.response [0b0110_0011]) = .ok (.pciRsv6 3 []) ∧ decode (.response [0b0111_0100]) = .ok (.pciRsv7 4 []) ∧
    decode (.response [0b1000_0101]) = .ok (.pciRsv8 5 []) ∧ decode (.response [0b1001_0110]) = .ok (.pciRsv9 6 []) ∧
    decode (.response [0b1010_0111]) = .ok (.pciRsvA 7 []) ∧ decode (.response [0b1011_1000]) = .ok (.pciRsvB 8 []) ∧
    decode (.response [0b1100_1001]) = .ok (.pciRsvC 9 []) ∧ decode (.response [0b1101_1010]) = .ok (.pciRsvD 10 []) ∧
    decode (.response [0b1110_1011]) = .ok (.pciRsvE 11 []) ∧ decode (.response [0b1111_1100]) = .ok (.pciRsvF 12 []) := by
  decide
theorem test_decode_rejects_by_name :
    decodeCommand 0x0000 = .error .opcode ∧ decodeCommand 0xD000 = .error .opcode ∧
    decodeCommand 0xFFFF = .error .opcode ∧ decodeCommand 0x2040 = .error .frameId ∧
    decodeCommand 0xB280 = .error .frameId ∧ decodeCommand 0xA042 = .error .frameId ∧
    decodeCommand 0x1010 = .error .kind ∧ decodeCommand 0x4020 = .error .kind ∧ decodeCommand 0x5030 = .error .kind ∧
    decodeCommand 0x9430 = .error .kind ∧ decodeCommand 0x1001 = .error .len ∧ decodeCommand 0x2009 = .error .len ∧
    decodeCommand 0x5000 = .error .len ∧ decodeCommand 0x500A = .error .len ∧ decodeCommand 0x600C = .error .len ∧
    decodeCommand 0xA000 = .error .len ∧ decodeCommand 0xC001 = .error .len ∧
    decodeResponse [] = .error .noPci ∧ decodeResponse [0, 1, 2, 3, 4, 5, 6, 7] = .error .overlong := by decide

/-! ### One step of each instruction, against the vectors of spec/95_test_vectors.md -/

/-- Sections 2.1: `PID 0x15` and `PID 0x3F`. -/
theorem test_pid : gives (exec (.pid 0x15) (ready [] [])) (fun t => t.rbyte == 0x55 && t.rpid == 0x55) ∧
    gives (exec (.pid 0x3F) (ready [] [])) (fun t => t.rbyte == 0xBF && t.status.word == 0x0002) := by decide
/-- The full table of rule R101(d). -/
theorem test_pid_table : (List.range 64).map (fun n => computePid (BitVec.ofNat 6 n)) =
      [0x80, 0xC1, 0x42, 0x03, 0xC4, 0x85, 0x06, 0x47, 0x08, 0x49, 0xCA, 0x8B, 0x4C, 0x0D, 0x8E, 0xCF] ++
      [0x50, 0x11, 0x92, 0xD3, 0x14, 0x55, 0xD6, 0x97, 0xD8, 0x99, 0x1A, 0x5B, 0x9C, 0xDD, 0x5E, 0x1F] ++
      [0x20, 0x61, 0xE2, 0xA3, 0x64, 0x25, 0xA6, 0xE7, 0xA8, 0xE9, 0x6A, 0x2B, 0xEC, 0xAD, 0x2E, 0x6F] ++
      [0xF0, 0xB1, 0x32, 0x73, 0xB4, 0xF5, 0x76, 0x37, 0x78, 0x39, 0xBA, 0xFB, 0x3C, 0x7D, 0xFE, 0xBF] := by decide
/-- Section 2.2: the end-around carry and the sum of exactly 255. -/
theorem test_cksc : gives (exec (.cksc 2) (ready [0xFF, 0x01] [])) (·.rbyte == 0xFE) ∧
    gives (exec (.cksc 2) (ready [0xFE, 0x01] [])) (·.rbyte == 0x00) := by decide
/-- Section 2.3: `CKSE 0x3F, [0xFF]`, and decision C1's value. -/
theorem test_ckse : gives (exec (.ckse 0x3F 1) (ready [0xFF] [])) (fun t => t.rbyte == 0x40 && t.rpid == 0xBF) ∧
    gives (exec (.ckse 0x3C 3) (ready [1, 2, 3] [])) (·.rbyte == 0xBD) := by decide
/-- Section 2.4. -/
theorem test_fencC : gives (exec (.fencC 0x00 0) (ready [] [])) (fun t => result t == some [0x55, 0x80, 0xFF]) := by decide
theorem test_fencE : gives (exec (.fencE 0x10 2) (ready [1, 2] []))
    (fun t => result t == some [0x55, 0x50, 0x01, 0x02, 0xAC] && t.rbyte == 0xAC) := by decide
/-- Section 2.5: `STATUS = 0x0024` and the kept data. -/
theorem test_fdecC : gives (exec (.fdecC 0x10 3) (ready [0x01, 0x02, 0xAC] []))
    (fun t => result t == some [1, 2] && t.status.word == 0x0024) := by decide
theorem test_fdecE : gives (exec (.fdecE 0x00 1) (ready [0x7F] [])) (fun t => result t == some [] && t.status.rclass == .enhanced) := by
  decide
theorem test_fdecCE : gives (exec (.fdecCE 0x10 3) (ready [0x01, 0x02, 0xAC] [])) (·.status.word == 0x0282) := by decide
/-- Section 2.6, V15: a 9-byte payload. -/
theorem test_scanC : gives (exec (.scanC 0x20 11)
      (ready [0x20, 0x12, 0x34, 0x56, 0x78, 0x9A, 0xBC, 0xDE, 0xF0, 0x00, 0xC3] []))
    (fun t => t.status.fkind == .protocol && t.rlen == 0) := by decide
/-- Section 2.6, V10 and V5. -/
theorem test_scanE : gives (exec (.scanE 0x10 4) (ready [0x01, 0x50, 0x02, 0x5C] []))
      (fun t => t.status.fkind == .checksum && result t == some [2]) ∧
    gives (exec (.scanE 0x10 3) (ready [0x55, 0x50, 0xAF] [])) (·.status.fkind == .short) := by decide
/-- Section 2.6, V19: the false success of id 0x15. -/
theorem test_scanCE : gives (exec (.scanCE 0x15 5) (ready [0x55, 0x55, 0x11, 0x22, 0x77] []))
    (fun t => t.status.done && result t == some [0x55, 0x11, 0x22] && t.status.rclass == .classic) := by decide
/-- Section 2.7. -/
theorem test_hdr : gives (exec (.hdr 0x3D) (ready [] [])) (fun t => t.trace == [.flush, .bsi 0x3D 0] && t.rpid == 0x7D) := by decide
/-- Section 2.8. -/
theorem test_sendC : gives (exec (.sendC 0x00 0) (ready [] []))
    (fun t => t.trace == [.flush, .bsi 0x00 0, .tx 0xFF, .wait 4] && t.status.done) := by decide
theorem test_sendE : gives (exec (.sendE 0x3F 1) (ready [0xFF] []))
    (fun t => t.trace == [.flush, .bsi 0x3F 0, .tx 0xFF, .tx 0x40, .wait 4]) := by decide
/-- Section 2.9. -/
theorem test_recvC : gives (exec (.recvC 0x3D) (ready [] [[]])) (fun t => t.status.word == 0x000C && t.trace.length == 3) := by decide
theorem test_recvE : gives (exec (.recvE 0x10) (ready [] [[0x55, 0x50, 0x01, 0x02, 0xAC]]))
    (fun t => result t == some [1, 2] && t.status.word == 0x0282) := by decide
theorem test_recvCE : gives (exec (.recvCE 0x10) (ready [] [[0x55, 0x50, 0x01, 0x02, 0xFC]])) (·.status.word == 0x0182) := by decide
/-- S10: the request frame of `DREQ 0x3E, []`. -/
theorem test_dreq : gives (exec (.dreq 1) (ready [0x3E] [])) (fun t => t.status.tstate == .awaitingResponse &&
    t.trace == [.flush, .bsi 0x3C 0, .tx 0x12, .tx 0x01, .tx 0x3E, .tx 0xFF, .tx 0xFF, .tx 0xFF, .tx 0xFF, .tx 0xFF,
      .tx 0xAE, .wait 4]) := by decide
/-- Section 2.11: both ends of `MAX_RETRIES`, and a NAD above its range. -/
theorem test_cfg : gives (exec (.cfg .maxRetries) (ready [30, 0] [])) (fun t => t.csr.maxRetries == 30 && t.status.done) ∧
    gives (exec (.cfg .maxRetries) (ready [31, 0] [])) (fun t => t.csr.maxRetries == 20 && t.status.fkind == .refused) ∧
    gives (exec (.cfg .nad) (ready [0, 1] [])) (fun t => t.csr.nad == 0x12 && t.status.fail) := by decide
/-- The last row of section 2.11: CFG reads both bytes. -/
theorem test_undef_operand : undefined (step { ready [0x12] [] with host := [.issue 0xB000] }) = true := by decide
/-- Rule R240: reset erases no trace. -/
theorem test_rst : gives (exec .rst { ready [1] [] with trace := [.flush], rbyte := 7 })
    (fun t => t.rbyte == 0 && t.dbuf == [] && t.trace == [.flush] && t.csr.respPolls == 1) := by decide

/-! The vectors of section 2.10 as polls of a DREQ in progress. -/

/-- D12 and D11: a Single Frame of length 6, and one of length 7. -/
theorem test_sf :
    after 1 (polled .awaitingResponse [[0x55, 0x7D, 0x12, 0x06, 0x01, 0x02, 0x03, 0x04, 0x05, 0x06, 0xD2]])
      (fun t => result t == some [1, 2, 3, 4, 5, 6] && t.status.tstate == .done) ∧
    after 1 (polled .awaitingResponse [[0x55, 0x7D, 0x12, 0x07, 0x01, 0x02, 0x03, 0x04, 0x05, 0x06, 0xD1]])
      (fun t => t.status.fkind == .protocol && t.status.tstate == .failed) := by decide
/-- D20: a First Frame of 5 bytes, its Flow Control frame sent. -/
theorem test_ff :
    after 1 (polled .awaitingResponse [[0x55, 0x7D, 0x12, 0x10, 0x05, 0x01, 0x02, 0x03, 0x04, 0x05, 0xC9]])
      (fun t => result t == some [1, 2, 3, 4, 5] && t.trace.drop 3 == [.flush, .bsi 0x3C 0, .tx 0x12, .tx 0x30, .tx 0x00,
        .tx 0x00, .tx 0xFF, .tx 0xFF, .tx 0xFF, .tx 0xFF, .tx 0xBD, .wait 4]) := by decide
/-- D24: a Consecutive Frame whatever its sequence number; D16: one as the first response. -/
theorem test_cf :
    after 1 (reassembly [[0x55, 0x7D, 0x12, 0x2F, 0xB3, 0xB4, 0xB5, 0xB6, 0xB7, 0xFF, 0x32]])
      (fun t => result t == some [0x61, 0x01, 0xB0, 0xB1, 0xB2, 0xB3, 0xB4, 0xB5, 0xB6, 0xB7]) ∧
    after 1 (polled .awaitingResponse [[0x55, 0x7D, 0x12, 0x21, 0x01, 0x02, 0x03, 0x04, 0x05, 0x06, 0xB7]])
      (fun t => t.status.fkind == .protocol && t.rlen == 0) := by decide
/-- D17: a Flow Control frame and a reserved type as the first response. -/
theorem test_fc_first :
    after 1 (polled .awaitingResponse [[0x55, 0x7D, 0x12, 0x30, 0x00, 0x00, 0xFF, 0xFF, 0xFF, 0xFF, 0xBD]])
      (fun t => t.status.fkind == .protocol && t.status.tstate == .failed) := by decide
theorem test_reserved_first :
    after 1 (polled .awaitingResponse [[0x55, 0x7D, 0x12, 0x40, 0x01, 0x02, 0xFF, 0xFF, 0xFF, 0xFF, 0xAA]])
      (fun t => t.status.fkind == .protocol && t.status.tstate == .failed) := by decide
/-- Rules R159 and R167 for every type that is never accepted. -/
theorem test_never_accepted : ∀ ty v, (3 ≤ BitVec.toNat (w := 4) ty →
    gives (exec (frameOfType ty v [1]) (polled .awaitingResponse [])) (fun t => t.status.fkind == .protocol) ∧
    gives (exec (frameOfType ty v [1]) (reassembly [])) (fun t => t.retry == 1 && t.status.busy)) := by decide
/-- D9: a wrong NAD in the first response; D27: an empty answer during reassembly, the last retry. -/
theorem test_polls :
    after 1 (polled .awaitingResponse [[0x55, 0x7D, 0x34, 0x03, 0x61, 0x01, 0xAB, 0xFF, 0xFF, 0xFF, 0xBA]])
      (fun t => t.status.fkind == .protocol) ∧
    after 1 { reassembly [[]] with retry := 20 }
      (fun t => t.status.fkind == .retryExhausted && t.retry == 21 && result t == some [0x61, 0x01, 0xB0, 0xB1, 0xB2]) := by
  decide

/-! ### The placed instruction -/

theorem test_placed_command : gives (step (State.reset.withFetchWord 16 0x2003)) (fun t => t.rbyte == 0xFF && t.status.done) ∧
    decodeTableWord 16 0xF000 = none := by decide
theorem test_placed_frame : gives (step (State.reset.withFetchWord 8 0x03)) (fun t => t.status.done && t.rlen == 3) ∧
    decodeTableWord 8 0x03 = some (.sf 3 [0, 0, 0, 0, 0, 0]) := by decide

/-! ### Witnesses: states and operands that meet the hypotheses of each statement -/

theorem witness_DecodeInvertsEncode : (Instr.fdecE 0x3F 9).wellFormed = true ∧ (Instr.sf 15 [1, 2, 3, 4, 5, 6]).wellFormed = true := by
  decide
theorem witness_EncodeInvertsDecode : decode (.command 0x6F4B) = .ok (.scanC 0x3D 11) ∧ decode (.response [0xFF]) = .ok (.pciRsvF 15 []) := by
  decide
theorem witness_EveryWordIsOneRowOrRefused : decodeCommand 0xB240 = .ok (.cfg .ifg) ∧
    (∃ r ∈ commandRows, r.admits 0xB240 = true ∧ r.selects 0xB240 = true) := by decide

/-- The three clauses: a word above a field's range, a legal word with its operands, the first byte missing. -/
theorem witness_DispatchOfAnArrivingWord :
    (ready [] []).status.busy = false ∧ (0x2009 : Word) ≠ 0xC000 ∧ wordLegal 0x2009 = false ∧
    wordLegal 0x2008 = true ∧ operandsOfWord 0x2008 = 8 ∧ DbufHolds (ready [1, 2, 3, 4, 5, 6, 7, 8] []) [1, 2, 3, 4, 5, 6, 7, 8] ∧
    wordLegal 0xB000 = true ∧ operandsOfWord 0xB000 = 2 ∧ DbufLacks (ready [0x12] []) 2 := by
  refine ⟨rfl, by decide, by decide, by decide, by decide, ?_, by decide, by decide, 1, by decide, by decide⟩
  unfold DbufHolds; decide
theorem witness_DispatchOfAnArrivingWord_host : ({ ready [] [] with host := [.issue 0x2009] } : State).host = [.issue 0x2009] := rfl

theorem witness_WordWhileBusyIsDropped : ({ polled .idle [] with host := [.issue 0xC001, .issue 0xC000] } : State).status.busy = true ∧
    (0xC001 : Word) ≠ 0xC000 := by decide

/-- A command in progress with both forms of the host's queue, and a DREQ before its request. -/
theorem witness_StepRunsTheLatchedCommand :
    (polled .done []).status.busy = true ∧ (polled .done []).host = [] ∧
    ({ polled .done [] with host := [.run] } : State).host = [.run] ∧
    decode (.command (polled .done []).cur) = .ok (.dreq 2) ∧ (Instr.dreq 2).wellFormed = true ∧
    (polled .done []).status.tstate ≠ .awaitingResponse ∧ (polled .done []).status.tstate ≠ .reassembling := by decide

theorem decode_dreq : decodeCommand 0xA002 = .ok (.dreq 2) := by decide

theorem exchanging_polled (ts : TState) (answers : List (List Byte)) : Exchanging ts [] (polled ts answers) :=
  ⟨.inl ⟨rfl, rfl⟩, rfl, rfl, 2, decode_dreq⟩
theorem exchanging_reassembly (answers : List (List Byte)) : Exchanging .reassembling [] (reassembly answers) :=
  ⟨.inl ⟨rfl, rfl⟩, rfl, rfl, 2, decode_dreq⟩

/-- Any of these states also polls with actions pending behind its step, as in program P7: a word to be dropped. -/
theorem exchanging_pending {ts : TState} {s : State} (h : Exchanging ts [] s) :
    Exchanging ts [.issue 0x1F40] { s with host := [.run, .issue 0x1F40] } := ⟨.inr rfl, h.2⟩

/-- Both transport states and both forms of the host's queue. -/
theorem witness_StepRunsThePolledFrame :
    let answer : List Byte := [0x55, 0x7D, 0x12, 0x03, 0x61, 0x01, 0xAB, 0xDC]
    Exchanging .awaitingResponse [] (polled .awaitingResponse [answer]) ∧
    Exchanging .reassembling [.issue 0x1F40] { polled .reassembling [answer] with host := [.run, .issue 0x1F40] } ∧
    (∀ ts, parse 0x7D (rxAnswer 11 (header 0x3D (polled ts [answer]))) .classic =
      { kind := .none, data := [0x12, 0x03, 0x61, 0x01, 0xAB], cls := .classic }) ∧
    decode (.response [0x03, 0x61, 0x01, 0xAB]) = .ok (.sf 3 [0x61, 0x01, 0xAB]) := by
  refine ⟨exchanging_polled _ _, exchanging_pending (exchanging_polled _ _), fun ts => ?_, by decide⟩
  cases ts <;> decide
/-- A poll that leaves the rest of the host's queue pending. -/
theorem test_poll_with_actions_pending :
    gives (step { polled .awaitingResponse [[0x55, 0x7D, 0x12, 0x03, 0x61, 0x01, 0xAB, 0xDC]] with host := [.run, .issue 0x1F40] })
      (fun t => t.status.done && t.host == [.issue 0x1F40]) := by decide

theorem witness_HostWriteToDbuf : ({ polled .idle [] with host := [.write 15 1] } : State).status.busy = true ∧
    ({ ready [] [] with host := [.write 15 1] } : State).status.busy = false := by decide

theorem witness_AssemblyLineLatchesItsCommand :
    (ready [] []).status.busy = false ∧ encode (.scanC 0x3D 11) = .command 0x6F4B ∧ (Instr.scanC 0x3D 11).wellFormed = true ∧
    Instr.scanC 0x3D 11 ≠ .rst ∧ (List.replicate 11 (0 : Byte)).length = operandsOfWord 0x6F4B := by decide

theorem witness_ChecksumClosedForm : [(1 : Byte), 2, 3].Perm [3, 1, 2] := by decide

/-- `LEN` at both ends, and a byte that is missing. -/
theorem witness_operands : ([] : List Byte).length = (0 : BitVec 4).toNat ∧ DbufHolds (ready [] []) [] ∧
    [(1 : Byte), 2, 3, 4, 5, 6, 7, 8].length = (8 : BitVec 4).toNat ∧
    DbufHolds (ready [1, 2, 3, 4, 5, 6, 7, 8] []) [1, 2, 3, 4, 5, 6, 7, 8] ∧ DbufLacks (ready [1] []) (2 : BitVec 4).toNat := by
  refine ⟨rfl, ?_, rfl, ?_, 1, by decide, by decide⟩ <;> (unfold DbufHolds; decide)
/-- CkscWritesTheClassicChecksum, CkseWritesTheEnhancedChecksum, FencWritesTheFrame, SendTransmitsTheFrame and
ScanDeliversTheParse share the hypotheses of `witness_operands`; FDEC has one data byte fewer. -/
theorem witness_FdecValidatesTheChecksumByte : [(1 : Byte), 2].length + 1 = (3 : BitVec 4).toNat ∧
    DbufHolds (ready [1, 2, 0xAC] []) ([1, 2] ++ [0xAC]) ∧
    (Instr.fdecE 0x10 3, (1 : BitVec 2), Policy.enhanced) ∈ [(Instr.fdecC 0x10 3, (0 : BitVec 2), Policy.classic),
      (Instr.fdecE 0x10 3, 1, Policy.enhanced), (Instr.fdecCE 0x10 3, 2, Policy.classicThenEnhanced)] := by
  refine ⟨rfl, ?_, by decide⟩
  unfold DbufHolds; decide
theorem witness_ScanDeliversTheParse : (Instr.scanC 0x10 0, (0 : BitVec 2), Policy.classic) ∈
    [(Instr.scanC 0x10 0, (0 : BitVec 2), Policy.classic), (Instr.scanE 0x10 0, 1, Policy.enhanced),
      (Instr.scanCE 0x10 0, 2, Policy.classicThenEnhanced)] := by decide
theorem witness_RecvDeliversOnePoll : (Instr.recvE 0x10, (1 : BitVec 2), Policy.enhanced) ∈
    [(Instr.recvC 0x10, (0 : BitVec 2), Policy.classic), (Instr.recvE 0x10, 1, Policy.enhanced),
      (Instr.recvCE 0x10, 2, Policy.classicThenEnhanced)] := by decide
/-- RECV and both polls of DREQ, with an answer longer than a poll reads. -/
theorem witness_ListedAnswerIsReadNext :
    (∃ t, exec (.recvE 0x10) (ready [] [List.replicate 12 1, [2]]) = .next t) ∧
    (∃ t, Exchanging .awaitingResponse [] (polled .awaitingResponse [List.replicate 12 1]) ∧
      step (polled .awaitingResponse [List.replicate 12 1]) = .next t) ∧
    (∃ t, Exchanging .reassembling [] (reassembly [[]]) ∧ step (reassembly [[]]) = .next t) :=
  ⟨⟨_, rfl⟩, ⟨_, exchanging_polled _ _, rfl⟩, ⟨_, exchanging_reassembly _, rfl⟩⟩

/-- The frame of section 2.4 read back, and the longest one's length. -/
theorem witness_FencThenFdecGivesThePayload :
    ∃ t, exec (.fencE 0x10 2) (ready [1, 2] []) = .next t ∧ DbufHolds (ready [1, 2] []) [1, 2] ∧
      (∀ a, a < (3 : BitVec 4).toNat → (ready [0x01, 0x02, 0xAC] []).dbuf.read a = t.rbuf.read (a + 2)) ∧
      (3 : BitVec 4).toNat = (2 : BitVec 4).toNat + 1 ∧ (9 : BitVec 4).toNat = (8 : BitVec 4).toNat + 1 := by
  refine ⟨_, rfl, ?_, ?_, by decide, by decide⟩
  · unfold DbufHolds; decide
  · decide

/-- Each clause at the ends of its range: one byte after the PID, nine data bytes, one and eight. -/
theorem witness_CaptureParseOrder : [(0x55 : Byte)] ≠ [] ∧ (0x50 : Byte) ∉ [0x55] ∧ [(0xAF : Byte)].length < 2 ∧
    8 < (List.replicate 9 (0 : Byte)).length ∧ 1 ≤ (List.replicate 1 (0 : Byte)).length ∧
    (List.replicate 8 (0 : Byte)).length ≤ 8 := by decide
/-- Payloads of 0, 1, 7 and 8 bytes, and an id that is not 0x15. -/
theorem witness_EchoedCaptureRoundTripAndAlias : ([] : List Byte).length < 8 ∧ 1 ≤ (List.replicate 1 (0 : Byte)).length ∧
    (List.replicate 7 (0 : Byte)).length < 8 ∧ (List.replicate 8 (0 : Byte)).length = 8 ∧ (0x14 : BitVec 6) ≠ 0x15 := by decide
/-- Section 2.6, V21: the false success of an empty Enhanced frame of id 0x15. -/
theorem test_scanC_empty_alias : gives (exec (.scanC 0x15 3) (ready [0x55, 0x55, 0xAA] []))
    (fun t => result t == some [0x55] && t.status.word == 0x0182) := by decide
theorem witness_DreqSendsItsRequest : (6 : BitVec 4).toNat = 1 + [(1 : Byte), 2, 3, 4, 5].length ∧
    (1 : BitVec 4).toNat = 1 + ([] : List Byte).length ∧
    DbufHolds (ready [0x22, 1, 2, 3, 4, 5] []) (0x22 :: [1, 2, 3, 4, 5]) ∧ DbufHolds (ready [0x3E] []) (0x3E :: []) := by
  refine ⟨rfl, rfl, ?_, ?_⟩ <;> (unfold DbufHolds; decide)

/-- A length equal to the data present and one more than it. -/
theorem witness_SingleFrameAsFirstResponse : (polled .awaitingResponse []).status.tstate = .awaitingResponse ∧
    (6 : BitVec 4).toNat ≤ [(1 : Byte), 2, 3, 4, 5, 6].length ∧ [(1 : Byte), 2, 3, 4, 5, 6].length < (7 : BitVec 4).toNat := by decide
/-- Totals at and above the seed's length, in both profiles. -/
theorem witness_FirstFrameAsFirstResponse : (polled .awaitingResponse []).status.tstate = .awaitingResponse ∧
    (polled .awaitingResponse []).csr.profile = 0 ∧
    ({ polled .awaitingResponse [] with csr := { csrs with profile := 1 } } : State).csr.profile = 1 ∧
    gives (exec (.ff 0 [5, 1, 2, 3, 4, 5]) (polled .awaitingResponse [])) (fun t => t.tlen.toNat == 5 && t.coll.length == 5) ∧
    gives (exec (.ff 0 [6, 1, 2, 3, 4, 5]) (polled .awaitingResponse [])) (fun t => t.tlen.toNat == 6 && t.coll.length == 5) := by decide
/-- One byte too few, and just enough. -/
theorem witness_ConsecutiveFrameIsAppended : (reassembly []).status.tstate = .reassembling ∧
    ((reassembly []).coll ++ [(1 : Byte), 2, 3, 4].take 6).length < (reassembly []).tlen.toNat ∧
    (reassembly []).tlen.toNat ≤ ((reassembly []).coll ++ [(1 : Byte), 2, 3, 4, 5].take 6).length := by decide
/-- The last retry that is left, and the one past it. -/
theorem witness_UnusableFrameCountsARetry : unusableFrame (.cf 1 []) = true ∧ unusableFrame (.sf 3 [1, 2, 3]) = true ∧
    (reassembly []).csr.maxRetries.toNat ≤ 30 ∧
    ({ reassembly [] with retry := 19 } : State).retry.toNat + 1 ≤ (reassembly []).csr.maxRetries.toNat ∧
    ({ reassembly [] with retry := 20 } : State).retry.toNat ≤ (reassembly []).csr.maxRetries.toNat ∧
    (reassembly []).csr.maxRetries.toNat < ({ reassembly [] with retry := 20 } : State).retry.toNat + 1 := by decide
theorem witness_WrongTypeAsFirstResponseFails : (polled .awaitingResponse []).status.tstate = .awaitingResponse ∧
    neverAccepted (.fc 0 []) = true ∧ neverAccepted (.pciRsvF 0 []) = true := by decide

/-- The only poll, and the first of two. -/
theorem witness_UnusableInitialPoll : Exchanging .awaitingResponse [] (polled .awaitingResponse [[]]) ∧
    (polled .awaitingResponse [[]]).att.toNat < (polled .awaitingResponse [[]]).csr.respPolls.toNat ∧
    (parse 0x7D (rxAnswer 11 (header 0x3D (polled .awaitingResponse [[]]))) .classic).kind ≠ .none ∧
    (1 : Byte).toNat < (2 : Byte).toNat := by
  refine ⟨exchanging_polled _ _, ?_⟩
  decide
theorem witness_UnaddressedFirstResponseFails :
    Exchanging .awaitingResponse [] (polled .awaitingResponse [[0x55, 0x7D, 0x12, 0xED]]) ∧
    parse 0x7D (rxAnswer 11 (header 0x3D (polled .awaitingResponse [[0x55, 0x7D, 0x12, 0xED]]))) .classic =
      { kind := .none, data := [0x12], cls := .classic } ∧ [(0x12 : Byte)].length < 2 ∧
    [(0x34 : Byte), 0x03][0]? ≠ some (polled .awaitingResponse []).csr.nad := by
  refine ⟨exchanging_polled _ _, ?_⟩
  decide

/-- An empty answer is unusable (rule R167). -/
theorem unusable_empty (nad : Byte) : UnusableAnswer nad [] := by
  rintro ⟨seq, b, f, cls, h⟩
  have := congrArg Parsed.kind h
  simp [parse] at this

theorem witness_UnusablePollCountsARetry : Exchanging .reassembling [] (reassembly [[]]) ∧
    (reassembly [[]]).csr.maxRetries.toNat ≤ 30 ∧ (reassembly [[]]).retry.toNat ≤ (reassembly [[]]).csr.maxRetries.toNat ∧
    UnusableAnswer (reassembly [[]]).csr.nad (rxAnswer 11 (header 0x3D (reassembly [[]]))) :=
  ⟨exchanging_reassembly _, by decide, by decide, unusable_empty _⟩

/-- A reassembly one poll from exhaustion, and an idle block, meet the invariant. -/
theorem sound_reassembly : BlockInv (reassembly [[]]) where
  dbuf_wf := by decide
  dbuf_bound := by decide
  result := ⟨[], rfl, rfl, by decide⟩
  outcome := by decide
  busy_open := by decide
  kind_iff := by decide
  check := rfl
  transient := by decide
  command := fun _ => ⟨.dreq 2, by decide, by decide⟩
  exchange := fun _ => ⟨rfl, 2, by decide⟩
  max_retries := by decide
  resp_polls := by decide
  attempts := by decide
  coll_bound := by decide
  pending := by decide

theorem sound_ready (hs : List HostAction) : BlockInv { ready [0x12] [] with host := hs } where
  dbuf_wf := rfl
  dbuf_bound := by simp [ready, Memory.ofBytesAt]
  result := ⟨[], rfl, rfl, by decide⟩
  outcome := by simp [ready, State.reset, Status.reset]
  busy_open := by simp [ready, State.reset, Status.reset]
  kind_iff := by simp [ready, State.reset, Status.reset]
  check := rfl
  transient := by simp [ready, State.reset, Status.reset]
  command := by simp [ready, State.reset, Status.reset]
  exchange := by simp [ready, State.reset, Status.reset, polling]
  max_retries := by simp [ready, csrs]
  resp_polls := by simp [ready, csrs]
  attempts := by simp [ready, State.reset, Status.reset]
  coll_bound := by simp [ready, State.reset]
  pending := by simp [ready, State.reset, Status.reset]

theorem witness_ExchangeEndsWithinItsPollBound : BlockInv (reassembly [[]]) ∧ OnlyRuns (reassembly [[]]) ∧
    OnlyRuns { reassembly [[]] with host := [.run, .run] } ∧ polling (reassembly [[]]) = true :=
  ⟨sound_reassembly, by unfold OnlyRuns; decide, by unfold OnlyRuns; decide, rfl⟩
theorem witness_EveryMoveKeepsTheBlockSound : ∃ t, BlockInv (reassembly [[]]) ∧ step (reassembly [[]]) = .next t :=
  ⟨_, sound_reassembly, rfl⟩
/-- Both sides of the disjunction occur. -/
theorem witness_OnlyUndefinedOperandsStop : BlockInv { ready [0x12] [] with host := [.issue 0xB000] } ∧
    undefined (step { ready [0x12] [] with host := [.issue 0xB000] }) = true ∧ BlockInv (reassembly [[]]) :=
  ⟨sound_ready _, by decide, sound_reassembly⟩

/-- Vector D24's frames with an empty answer between them; and the shortest response. -/
theorem witness_ReassemblyGivesTheResponse :
    let a : List Byte := [0x55, 0x7D, 0x12, 0x10, 0x0A, 0x61, 0x01, 0xB0, 0xB1, 0xB2, 0x5C]
    let b : List Byte := [0x55, 0x7D, 0x12, 0x21, 0xB3, 0xB4, 0xB5, 0xB6, 0xB7, 0xFF, 0x40]
    let r : List Byte := [0x61, 0x01, 0xB0, 0xB1, 0xB2, 0xB3, 0xB4, 0xB5, 0xB6, 0xB7]
    let s := polled .awaitingResponse [a, [], b]
    Exchanging .awaitingResponse [] s ∧ OnlyRuns s ∧ s.csr.maxRetries.toNat ≤ 30 ∧ 1 ≤ r.length ∧ r.length ≤ 4095 ∧
    s.xcvr.rx = a :: [[], b] ∧
    parse 0x7D (a.take 11) .classic =
      { kind := .none, data := s.csr.nad :: pciByte 1 0 :: 0x0A :: [0x61, 0x01, 0xB0, 0xB1, 0xB2], cls := .classic } ∧
    (0 : BitVec 4).toNat * 256 + (0x0A : Byte).toNat = r.length ∧ r.take 5 = [0x61, 0x01, 0xB0, 0xB1, 0xB2] ∧
    CfAnswers s.csr.nad s.csr.maxRetries.toNat 0 (r.drop 5) [[], b] := by
  refine ⟨exchanging_polled _ _, by unfold OnlyRuns; decide, by decide, by decide, by decide, rfl, by decide, by decide,
    by decide, ?_⟩
  refine .unusable 0 _ [] _ (by decide) (unusable_empty _) (by decide) ?_
  exact .frame 1 _ _ [] 1 [0xB3, 0xB4, 0xB5, 0xB6, 0xB7, 0xFF] .classic (by decide) (by decide) rfl (by decide) (.complete 0)
theorem witness_ReassemblyGivesTheResponse_shortest (nad : Byte) : CfAnswers nad 20 0 ([0x61].drop 5) [] ∧
    ([0x61, 0, 0, 0, 0] : List Byte).take [(0x61 : Byte)].length = [0x61].take 5 := ⟨.complete 0, by decide⟩

/-- The Consecutive Frames of a response of zeros, at any length: 682 of them at the longest. -/
theorem zeros_answers (k n : Nat) (h1 : n ≤ 6 * k) (h2 : 6 * k < n + 6) :
    CfAnswers 0x12 20 0 (List.replicate n 0) (List.replicate k [0x55, 0x7D, 0x12, 0x20, 0, 0, 0, 0, 0, 0, 0xCD]) := by
  induction k generalizing n with
  | zero => obtain rfl : n = 0 := by omega
            exact .complete 0
  | succ k ih =>
    refine .frame 0 _ _ _ 0 (List.replicate 6 0) .classic ?_ (by decide) (by decide) ?_ ?_
    · simp; omega
    · rw [List.length_replicate, List.take_replicate, List.take_replicate, Nat.min_comm]
    · rw [List.drop_replicate]
      by_cases h : k = 0
      · subst h
        rw [show n - 6 = 0 by omega]; exact .complete 0
      · exact ih (n - 6) (by omega) (by omega)
theorem witness_ReassemblyGivesTheResponse_longest :
    CfAnswers 0x12 20 0 ((List.replicate 4095 0).drop 5) (List.replicate 682 [0x55, 0x7D, 0x12, 0x20, 0, 0, 0, 0, 0, 0, 0xCD]) ∧
    (0xF : BitVec 4).toNat * 256 + (0xFF : Byte).toNat = (List.replicate 4095 (0 : Byte)).length := by
  rw [List.drop_replicate]
  exact ⟨zeros_answers 682 4090 (by omega) (by omega), by rw [List.length_replicate]; decide⟩

/-- Both ends of two ranges, and a value just outside each. -/
theorem witness_CfgWritesOneRegisterOrIsRefused : DbufHolds (ready [30, 0] []) [30, 0] ∧
    valueLegal .maxRetries ((30 : Byte).toNat + (0 : Byte).toNat * 256) ∧ ¬valueLegal .maxRetries ((31 : Byte).toNat + (0 : Byte).toNat * 256) ∧
    valueLegal .respPolls ((1 : Byte).toNat + (0 : Byte).toNat * 256) ∧ ¬valueLegal .respPolls ((0 : Byte).toNat + (1 : Byte).toNat * 256) := by
  refine ⟨?_, ?_⟩
  · unfold DbufHolds; decide
  · simp [valueLegal]
theorem witness_ResetCommandResets : ({ polled .idle [] with host := [.issue 0xC000] } : State).host = [.issue 0xC000] := rfl
theorem witness_ReservedCsrIndices : 0x0A ≤ (0x0A : BitVec 6).toNat ∧ 0x0A ≤ (0x3F : BitVec 6).toNat ∧
    ({ ready [] [] with host := [.issue (packWord 0xB 0x0A 0 0)] } : State).status.busy = false := by decide

/-- A CFG in progress, and a reset, each change a CSR. -/
theorem witness_CsrsChangeOnlyByCfgAndReset :
    (∃ t, step { polled .idle [] with cur := 0xB140 } = .next t ∧ t.csr ≠ csrs) ∧
    (∃ t, step { ready [] [] with csr := { csrs with respPolls := 2 }, host := [.issue 0xC000] } = .next t ∧
      t.csr ≠ { csrs with respPolls := 2 }) :=
  ⟨⟨_, rfl, by decide⟩, ⟨_, rfl, fun h => absurd (congrArg Csrs.respPolls h) (by decide)⟩⟩
/-- `OVR` set by a word while busy, and cleared by reset. -/
theorem witness_OverrunIsSticky :
    (∃ t, step { polled .idle [] with host := [.issue 0x1000] } = .next t ∧ t.status.ovr = true) ∧
    (∃ t, step { ready [] [] with status := { Status.reset with ovr := true }, host := [.issue 0xC000] } = .next t ∧
      t.status.ovr = false) := ⟨⟨_, rfl, rfl⟩, ⟨_, rfl, rfl⟩⟩
theorem witness_EachRegisterHasItsWriters : ∃ t, exec (.pid 0) (ready [] []) = .next t ∧ Instr.pid 0 ≠ .rst :=
  ⟨_, rfl, by decide⟩
/-- A SCAN, an FDEC and a CFG that fail. -/
theorem witness_FailureCodesOfEachCommand :
    (∃ t, exec (.scanC 0 0) (ready [] []) = .next t ∧ t.status.fail = true) ∧
    (∃ t, exec (.fdecC 0 1) (ready [0] []) = .next t ∧ t.status.fail = true) ∧
    (∃ t, exec (.cfg .nad) (ready [0, 1] []) = .next t ∧ t.status.fail = true) := ⟨⟨_, rfl, rfl⟩, ⟨_, rfl, rfl⟩, ⟨_, rfl, rfl⟩⟩
/-- An initial poll that fails the exchange, and the poll that exhausts the retries. -/
theorem witness_FailureCodesOfEachCommand_polls :
    (∃ t, Exchanging .awaitingResponse [] (polled .awaitingResponse [[]]) ∧
      (polled .awaitingResponse [[]]).status.fail = false ∧ step (polled .awaitingResponse [[]]) = .next t ∧
      t.status.fail = true) ∧
    (∃ t, Exchanging .reassembling [] { reassembly [[]] with retry := 20 } ∧
      (reassembly [[]]).status.fail = false ∧ step { reassembly [[]] with retry := 20 } = .next t ∧
      t.status.fail = true) :=
  ⟨⟨_, exchanging_polled _ _, rfl, rfl, rfl⟩, ⟨_, exchanging_reassembly [[]], rfl, rfl, rfl⟩⟩
theorem witness_TraceOnlyGrows : ∃ t, step (polled .awaitingResponse [[]]) = .next t := ⟨_, rfl⟩
/-- Two states that differ in the value about to be returned. -/
theorem witness_ReturnedPidIsIgnored :
    SameButReturned { ready [] [] with xcvr := { rx := [], bsi := [0x7D], draws := 0 }, trace := [.bsi 0 1] }
      { ready [] [] with xcvr := { rx := [], bsi := [0x00], draws := 0 }, trace := [.bsi 0 2] } := ⟨rfl, rfl, rfl⟩

end Sys2Proof.Tests
end

section
/-! The block's invariant is kept by every move. -/

namespace Sys2Proof.Machine

/-! ### The part of the invariant that any operation can be checked for on its own -/

/-- The clauses of `BlockInv` that do not speak of the command in progress. -/
structure Sound (s : State) : Prop where
  dbuf_wf : s.dbuf.wf = true
  dbuf_bound : ∀ c ∈ s.dbuf, c.1 < 16
  result : ∃ l : List Byte, HoldsPrefix s.rbuf l ∧ l.length = s.rlen.toNat ∧ l.length ≤ 4095
  outcome : ¬(s.status.done = true ∧ s.status.fail = true)
  busy_open : s.status.busy = true → s.status.done = false ∧ s.status.fail = false
  kind_iff : s.status.fail = false ↔ s.status.fkind = .none
  check : s.status.ckok = s.status.rclass.matched
  transient : s.status.tstate ≠ .singleFrameDone
  max_retries : 20 ≤ s.csr.maxRetries.toNat ∧ s.csr.maxRetries.toNat ≤ 30
  resp_polls : 1 ≤ s.csr.respPolls.toNat
  coll_bound : s.coll.length ≤ 4100

theorem BlockInv.sound {s : State} (h : BlockInv s) : Sound s := { h with }

/-- An idle block that awaits no poll has nothing in progress to be checked. -/
theorem Sound.blockInv_of_idle {t : State} (h : Sound t) (hb : t.status.busy = false)
    (hi : t.status.tstate ≠ .awaitingResponse) (hr : t.status.tstate ≠ .reassembling) : BlockInv t :=
  { h with
    command := by simp [hb]
    exchange := by simp [polling_iff, hi, hr]
    attempts := fun e => absurd e hi
    pending := fun e => absurd e hr }

/-- A DREQ that goes on polling stays latched, its operands defined. -/
theorem Sound.blockInv_of_polling {s t : State} {len : BitVec 4} (ht : Sound t) (h : BlockInv s)
    (hd : decodeCommand s.cur = .ok (.dreq len)) (hb : s.status.busy = true)
    (busy : t.status.busy = s.status.busy) (cur : t.cur = s.cur) (dbuf : t.dbuf = s.dbuf)
    (attempts : t.status.tstate = .awaitingResponse → t.att.toNat < t.csr.respPolls.toNat)
    (pending : t.status.tstate = .reassembling →
      t.coll.length < t.tlen.toNat ∧ t.retry.toNat ≤ t.csr.maxRetries.toNat) : BlockInv t :=
  { ht with
    command := fun _ => by
      unfold operands; rw [cur, dbuf]; exact h.command hb
    exchange := fun _ => ⟨busy.trans hb, len, by rw [cur]; exact hd⟩
    attempts := attempts
    pending := pending }

/-- An idle sound block awaits no poll. -/
theorem BlockInv.not_polling_of_idle {s : State} (h : BlockInv s) (hb : s.status.busy = false) :
    s.status.tstate ≠ .awaitingResponse ∧ s.status.tstate ≠ .reassembling := by
  rw [← not_or, ← polling_iff]
  exact fun hp => absurd (h.exchange hp).1 (by simp [hb])

/-! ### One lemma per operation -/

section
variable {s : State} (h : Sound s)
include h

theorem Sound.of_eq {t : State} (dbuf : t.dbuf = s.dbuf) (status : t.status = s.status)
    (rbuf : t.rbuf = s.rbuf) (rlen : t.rlen = s.rlen) (csr : t.csr = s.csr) (coll : t.coll = s.coll) : Sound t := by
  constructor
  · rw [dbuf]; exact h.dbuf_wf
  · rw [dbuf]; exact h.dbuf_bound
  · rw [rbuf, rlen]; exact h.result
  · rw [status]; exact h.outcome
  · rw [status]; exact h.busy_open
  · rw [status]; exact h.kind_iff
  · rw [status]; exact h.check
  · rw [status]; exact h.transient
  · rw [csr]; exact h.max_retries
  · rw [csr]; exact h.resp_polls
  · rw [coll]; exact h.coll_bound

theorem finishOk_sound : Sound (finishOk s) :=
  { h with outcome := by simp, busy_open := by simp, kind_iff := by simp }

theorem finishFail_sound {k : FKind} (hk : k ≠ .none) : Sound (finishFail k s) :=
  { h with outcome := by simp, busy_open := by simp, kind_iff := by simp [hk] }

theorem finishWith_sound (k : FKind) : Sound (finishWith k s) :=
  match k with
  | .none => finishOk_sound h
  | .timeout | .noPid | .short | .checksum | .protocol | .retryExhausted | .refused => finishFail_sound h (by simp)

theorem setCheck_sound (cls : RClass) : Sound (setCheck cls.matched cls s) := { h with check := rfl }

theorem setTState_sound {t : TState} (ht : t ≠ .singleFrameDone) : Sound (setTState t s) := { h with transient := ht }

theorem setOverrun_sound : Sound (setOverrun s) := { h with }

theorem startCommand_sound (w : Word) : Sound (startCommand w s) :=
  { h with outcome := by simp, busy_open := by simp, kind_iff := by simp, check := rfl }

theorem setResult_sound {data : List Byte} (hl : data.length ≤ 4095) : Sound (setResult data s) :=
  { h with result := ⟨data, rfl, by simp; omega, hl⟩ }

theorem header_sound (id : BitVec 6) : Sound (header id s) :=
  h.of_eq (by simp) (by simp) (by simp) (by simp) (by simp) (by simp)

theorem send_sound (id : BitVec 6) (data : List Byte) (k : Cksum) : Sound (send id data k s) :=
  h.of_eq (by simp) (by simp) (by simp) (by simp) (by simp) (by simp)

theorem recvState_sound (id : BitVec 6) (tmo : Word) : Sound (recvState id tmo s) :=
  h.of_eq (by simp) (by simp) (by simp) (by simp) (by simp) (by simp)

theorem deliver_sound {r : Parsed} (hr : r.data.length ≤ 8) : Sound (deliver r s) :=
  finishWith_sound (setCheck_sound (setResult_sound h (by omega)) _) _

theorem encodeFrame_sound (id : BitVec 6) (k : Cksum) {data : List Byte} (hl : data.length ≤ 15) :
    Sound (encodeFrame id k data s) :=
  have hr := setResult_sound h (data := [0x55, computePid id] ++ data ++ [frameChecksum k (computePid id) data])
    (by simp; omega)
  finishOk_sound (hr.of_eq rfl rfl rfl rfl rfl rfl)

theorem decodeFrame_sound (id : BitVec 6) (p : Policy) {bytes : List Byte} (hl : bytes.length ≤ 15) :
    Sound (decodeFrame id p bytes s) := by
  have hr := setResult_sound h (data := bytes.dropLast) (by simp; omega)
  apply finishWith_sound
  apply setCheck_sound
  exact hr.of_eq rfl rfl rfl rfl rfl rfl

theorem scanCapture_sound (id : BitVec 6) (p : Policy) (bytes : List Byte) : Sound (scanCapture id p bytes s) := by
  refine deliver_sound ?_ (parse_data_length _ _ _)
  exact h.of_eq rfl rfl rfl rfl rfl rfl

theorem pollSlave_sound (id : BitVec 6) (p : Policy) : Sound (pollSlave id p s) :=
  deliver_sound (recvState_sound h _ _) (parse_data_length _ _ _)

theorem sendRequest_sound (body : List Byte) : Sound (sendRequest body s) := by
  have hr := setResult_sound (setTState_sound h (t := .idle) (by simp)) (data := []) (by simp)
  refine setTState_sound ?_ (by simp)
  apply send_sound
  exact hr.of_eq rfl rfl rfl rfl rfl rfl

theorem failExchange_sound {k : FKind} (hk : k ≠ .none) : Sound (failExchange k s) :=
  finishFail_sound (setTState_sound (setResult_sound h (by simp)) (by simp)) hk

theorem completeExchange_sound : Sound (completeExchange s) :=
  finishOk_sound (setTState_sound (setResult_sound h (by simp; omega)) (by simp))

theorem flowControl_sound : Sound (flowControl s) := by
  rcases flowControl_cases s with ⟨-, e⟩ | ⟨-, e⟩ <;> rw [e]
  · exact send_sound h _ _ _
  · exact h

theorem afterResponsePoll_sound : Sound (afterResponsePoll s) :=
  (setCheck_sound (recvState_sound h diagRespId s.csr.respTmo) _).of_eq rfl rfl rfl rfl rfl rfl

theorem unusablePoll_sound : Sound (unusablePoll s) := by
  rcases unusablePoll_cases s with ⟨-, e⟩ | ⟨-, e⟩ <;> rw [e]
  · exact h.of_eq rfl rfl rfl rfl rfl rfl
  · exact { h with
      result := ⟨s.coll.take s.tlen.toNat, rfl, by simp; omega, by simp; omega⟩
      outcome := by simp
      busy_open := by simp
      kind_iff := by simp
      transient := by simp }

theorem afterCfPoll_sound : Sound (afterCfPoll s) := setCheck_sound (recvState_sound h _ _) _

/-- A legal value keeps the ranges of `MAX_RETRIES` and `RESP_POLLS` (rules R37, R193). -/
theorem csrWrite_sound {r : Csr} {v : Word} (hl : csrLegal r v = true) : Sound { s with csr := csrWrite r v s.csr } := by
  cases r with
  | maxRetries =>
    simp only [csrLegal, Bool.and_eq_true, decide_eq_true_eq] at hl
    exact { h with max_retries := by simp [csrWrite]; omega }
  | respPolls =>
    simp only [csrLegal, Bool.and_eq_true, decide_eq_true_eq] at hl
    exact { h with resp_polls := by simp [csrWrite]; omega }
  | _ => exact { h with }

end

theorem resetBlock_sound (s : State) : Sound (resetBlock s) where
  dbuf_wf := rfl
  dbuf_bound := by simp
  result := ⟨[], rfl, rfl, by simp⟩
  outcome := by simp [Status.reset]
  busy_open := by simp [Status.reset]
  kind_iff := by simp [Status.reset]
  check := rfl
  transient := by simp [Status.reset]
  max_retries := by
    have := Config.maxRetriesAbove20.isLt
    simp [Csrs.reset, Config.maxRetriesDefault]; omega
  resp_polls := by simp [Csrs.reset]
  coll_bound := by simp

/-! ### The host's actions -/

/-- The invariant does not speak of the host's queue. -/
theorem BlockInv.withHost {s : State} (h : BlockInv s) (hs : List HostAction) : BlockInv { s with host := hs } :=
  { h with }

theorem hostWrite_blockInv {s : State} (h : BlockInv s) (i : BitVec 4) (b : Byte) : BlockInv (hostWrite i b s) := by
  unfold hostWrite
  split
  · exact h
  · rename_i hb
    refine { h with dbuf_wf := Memory.wf_write _ _ _ h.dbuf_wf, dbuf_bound := ?_, command := fun e => absurd e hb }
    intro c hc
    rcases Memory.mem_write hc with rfl | hc
    · exact i.isLt
    · exact h.dbuf_bound c hc

theorem resetBlock_blockInv (s : State) : BlockInv (resetBlock s) :=
  (resetBlock_sound s).blockInv_of_idle rfl (by simp [Status.reset]) (by simp [Status.reset])

theorem setOverrun_blockInv {s : State} (h : BlockInv s) : BlockInv (setOverrun s) := { h with }

/-- A dispatch latches a word whose operands are defined, or refuses it (rules R190, R192). -/
theorem dispatch_blockInv {s t : State} {w : Word} (h : BlockInv s) (hb : s.status.busy = false)
    (hd : dispatch w s = .next t) : BlockInv t := by
  obtain ⟨hi, hr⟩ := h.not_polling_of_idle hb
  have hs := startCommand_sound h.sound w
  rcases dispatch_next hd with ⟨e, -, rfl⟩ | ⟨i, hw, ho, rfl⟩
  · exact (finishFail_sound hs (by simp)).blockInv_of_idle rfl hi hr
  · exact { hs with
      command := fun _ => ⟨i, hw, ho⟩
      exchange := by simp [polling_iff, hi, hr]
      attempts := fun e => absurd e hi
      pending := fun e => absurd e hr }

/-! ### The commands -/

/-- Every command but RST leaves the block sound. -/
theorem exec_command_sound {i : Instr} {s t : State} (hs : Sound s) (he : exec i s = .next t) (hf : isFrame i = false)
    (hr : i ≠ .rst) : Sound t := by
  rcases exec_command he hf hr with ⟨_, _, -, ⟨rfl, -⟩ | ⟨rfl, -⟩⟩ | ⟨id, k, data, -, hl, rfl⟩ |
    ⟨id, p, bytes, -, hl, rfl⟩ | ⟨id, p, bytes, -, rfl⟩ | ⟨id, -, rfl⟩ | ⟨id, k, data, -, rfl⟩ | ⟨id, p, -, rfl⟩ |
    ⟨_, body, -, rfl⟩ | ⟨r, v, -, ⟨hv, rfl⟩ | rfl⟩
  · exact finishOk_sound (hs.of_eq rfl rfl rfl rfl rfl rfl)
  · exact finishOk_sound (hs.of_eq rfl rfl rfl rfl rfl rfl)
  · exact encodeFrame_sound hs id k hl
  · exact decodeFrame_sound hs id p hl
  · exact scanCapture_sound hs id p bytes
  · exact finishOk_sound (header_sound hs id)
  · exact finishOk_sound (send_sound hs id data k)
  · exact pollSlave_sound hs id p
  · exact sendRequest_sound hs body
  · exact finishOk_sound (csrWrite_sound hs hv)
  · exact finishFail_sound hs (by simp)

/-- Every command but RST and DREQ ends in the step that runs it and leaves the transport registers as they were
(rules R39 to R41, R62). -/
theorem exec_command_ends {i : Instr} {s t : State} (he : exec i s = .next t) (hf : isFrame i = false)
    (hr : i ≠ .rst) (hd : ∀ len, i ≠ .dreq len) :
    t.status.busy = false ∧ t.status.tstate = s.status.tstate ∧ t.tlen = s.tlen ∧ t.coll = s.coll ∧
      t.retry = s.retry ∧ t.att = s.att := by
  rcases exec_command he hf hr with ⟨_, _, -, ⟨rfl, -⟩ | ⟨rfl, -⟩⟩ | ⟨id, k, data, -, -, rfl⟩ |
    ⟨id, p, bytes, -, -, rfl⟩ | ⟨id, p, bytes, -, rfl⟩ | ⟨id, -, rfl⟩ | ⟨id, k, data, -, rfl⟩ | ⟨id, p, -, rfl⟩ |
    ⟨len, body, hi, -⟩ | ⟨r, v, -, ⟨-, rfl⟩ | rfl⟩
  · simp
  · simp
  · simp [encodeFrame]
  · simp [decodeFrame]
  · simp [scanCapture]
  · simp
  · simp
  · simp [pollSlave]
  · exact absurd hi (hd len)
  · simp
  · simp

/-- A DREQ's request step leaves the exchange awaiting its first poll (rule R154). -/
theorem sendRequest_blockInv {s : State} (h : BlockInv s) {len : BitVec 4} (hb : s.status.busy = true)
    (hd : decodeCommand s.cur = .ok (.dreq len)) (body : List Byte) : BlockInv (sendRequest body s) := by
  refine (sendRequest_sound h.sound body).blockInv_of_polling h hd hb ?_ ?_ ?_ (fun _ => ?_) ?_ <;>
    simp [sendRequest]
  have := h.resp_polls; omega

/-- The body of the latched command keeps the invariant. -/
theorem exec_body_blockInv {s t : State} {i : Instr} (h : BlockInv s) (hb : s.status.busy = true)
    (hd : decodeCommand s.cur = .ok i) (he : exec i s = .next t) : BlockInv t := by
  by_cases hr : i = .rst
  · subst hr; cases he; exact resetBlock_blockInv s
  by_cases hq : ∃ len, i = .dreq len
  · obtain ⟨len, rfl⟩ := hq
    obtain ⟨body, -, rfl⟩ := withOperands_next he
    exact sendRequest_blockInv h hb hd body
  · have hf := isFrame_of_decodeCommand hd
    obtain ⟨busy, ts, -⟩ := exec_command_ends he hf hr (fun len e => hq ⟨len, e⟩)
    have hnp : ¬polling s = true := fun hp => by
      obtain ⟨-, len, hl⟩ := h.exchange hp
      exact hq ⟨len, Except.ok.inj (hd.symm.trans hl)⟩
    rw [polling_iff, ← ts, not_or] at hnp
    exact (exec_command_sound h.sound he hf hr).blockInv_of_idle busy hnp.1 hnp.2

/-! ### The polls -/

@[simp] theorem flowControl_cur (s : State) : (flowControl s).cur = s.cur := (flowControl_kept s).cur
@[simp] theorem flowControl_dbuf (s : State) : (flowControl s).dbuf = s.dbuf := (flowControl_kept s).dbuf
@[simp] theorem flowControl_status (s : State) : (flowControl s).status = s.status := by
  rcases flowControl_cases s with ⟨-, e⟩ | ⟨-, e⟩ <;> simp [e]
@[simp] theorem flowControl_retry (s : State) : (flowControl s).retry = s.retry := by
  rcases flowControl_cases s with ⟨-, e⟩ | ⟨-, e⟩ <;> simp [e]

theorem runFetched_of_next {f : Fetched} {t : State}
    (h : (∃ j u, f = .run j u ∧ exec j u = .next t) ∨ f = .settled (.next t)) : runFetched f = .next t := by
  rcases h with ⟨j, u, rfl, h⟩ | rfl
  · exact h
  · rfl

theorem failExchange_blockInv {s : State} (h : Sound s) {k : FKind} (hk : k ≠ .none) : BlockInv (failExchange k s) :=
  (failExchange_sound h hk).blockInv_of_idle rfl (by simp) (by simp)

theorem completeExchange_blockInv {s : State} (h : Sound s) : BlockInv (completeExchange s) :=
  (completeExchange_sound h).blockInv_of_idle rfl (by simp) (by simp)

section
variable {s u : State} {len : BitVec 4}

/-- What a reassembly leaves after its completion test: it is complete, or bytes are missing (rule R163). -/
theorem completionTest_blockInv (hu : Sound u) (h : BlockInv s) (hd : decodeCommand s.cur = .ok (.dreq len))
    (hb : s.status.busy = true) (busy : u.status.busy = s.status.busy) (cur : u.cur = s.cur) (dbuf : u.dbuf = s.dbuf)
    (ts : u.status.tstate = .reassembling) (retry : u.retry = 0) : BlockInv (completionTest u) := by
  rcases completionTest_cases u with ⟨-, e⟩ | ⟨missing, e⟩ <;> rw [e]
  · exact completeExchange_blockInv hu
  · exact hu.blockInv_of_polling h hd hb busy cur dbuf (by simp [ts]) fun _ => ⟨missing, by simp [retry]⟩

/-- An unusable poll leaves a retry or the end of the exchange (rules R167, R168). -/
theorem unusablePoll_blockInv (hu : Sound u) (h : BlockInv s) (hd : decodeCommand s.cur = .ok (.dreq len))
    (hb : s.status.busy = true) (busy : u.status.busy = s.status.busy) (cur : u.cur = s.cur) (dbuf : u.dbuf = s.dbuf)
    (ts : u.status.tstate = .reassembling) (missing : u.coll.length < u.tlen.toNat) : BlockInv (unusablePoll u) := by
  have ht := unusablePoll_sound hu
  rcases unusablePoll_cases u with ⟨hr, e⟩ | ⟨-, e⟩ <;> rw [e] at ht ⊢
  · refine ht.blockInv_of_polling h hd hb busy cur dbuf (by simp [ts]) fun _ => ⟨missing, ?_⟩
    simp; omega
  · exact ht.blockInv_of_idle rfl (by simp) (by simp)

end

/-- An initial-response poll keeps the invariant (rules R155 to R163). -/
theorem pollResponse_blockInv {s t : State} {len : BitVec 4} (h : BlockInv s) (hb : s.status.busy = true)
    (hd : decodeCommand s.cur = .ok (.dreq len)) (hs : s.status.tstate = .awaitingResponse)
    (he : runFetched (pollResponse s) = .next t) : BlockInv t := by
  have hu := afterResponsePoll_sound h.sound
  rcases pollResponse_cases s with ⟨hk, hp⟩ | ⟨-, -, hp⟩ | ⟨ty, v, data, -, -, hl, hp⟩ <;> rw [hp] at he
  · cases he
    split
    · refine hu.blockInv_of_polling h hd hb (by simp) (by simp) (by simp) (fun _ => ?_) (by simp [hs])
      simp; omega
    · exact failExchange_blockInv hu hk
  · cases he; exact failExchange_blockInv hu (by simp)
  · have hts : (afterResponsePoll s).status.tstate = .awaitingResponse := by simpa using hs
    rcases exec_frame_first ty v data hts with hx | ⟨-, hx⟩ | ⟨lo, seed, -, hx⟩ <;> cases hx.symm.trans he
    · exact failExchange_blockInv hu (by simp)
    · have hr := setResult_sound hu (data := data.take v.toNat) (by simp [frameDataMax] at hl ⊢; omega)
      exact (finishOk_sound (setTState_sound hr (t := .done) (by simp))).blockInv_of_idle rfl (by simp) (by simp)
    · refine completionTest_blockInv (flowControl_sound (setTState_sound ?_ (by simp))) h hd hb ?_ ?_ ?_ ?_ ?_
      · exact { hu with coll_bound := by simp }
      all_goals simp

/-- A Consecutive-Frame poll keeps the invariant (rules R164 to R169). -/
theorem pollConsecutive_blockInv {s t : State} {len : BitVec 4} (h : BlockInv s) (hb : s.status.busy = true)
    (hd : decodeCommand s.cur = .ok (.dreq len)) (hs : s.status.tstate = .reassembling)
    (he : runFetched (pollConsecutive s) = .next t) : BlockInv t := by
  have hu := afterCfPoll_sound h.sound
  have hts : (afterCfPoll s).status.tstate = .reassembling := by simpa using hs
  obtain ⟨missing, -⟩ := h.pending hs
  have unusable : BlockInv (unusablePoll (afterCfPoll s)) :=
    unusablePoll_blockInv hu h hd hb (by simp) (by simp) (by simp) hts (by simpa using missing)
  rcases pollConsecutive_cases s with ⟨-, hp⟩ | ⟨ty, v, data, -, -, -, hp⟩ <;> rw [hp] at he
  · cases he; exact unusable
  · rcases exec_frame_reassembling ty v data hts with hx | ⟨-, -, hx⟩ <;> cases hx.symm.trans he
    · exact unusable
    · refine completionTest_blockInv ?_ h hd hb (by simp) (by simp) (by simp) hts rfl
      have := s.tlen.isLt
      exact { hu with coll_bound := by simp; omega }

theorem BlockMove.blockInv {s t : State} (m : BlockMove s t) (h : BlockInv s) : BlockInv t := by
  cases m with
  | idle => exact h
  | refused hb e hd =>
    obtain ⟨i, hi, -⟩ := h.command hb
    rw [hd] at hi; cases hi
  | body hb i hd np _ he => exact exec_body_blockInv h hb hd he
  | response hb len hd hs _ he => exact pollResponse_blockInv h hb hd hs (runFetched_of_next he)
  | consecutive hb len hd hs _ he => exact pollConsecutive_blockInv h hb hd hs (runFetched_of_next he)

/-- Settles O44: every move of `step_next` keeps the invariant. -/
theorem everyMoveKeepsTheBlockSound : Obligations.EveryMoveKeepsTheBlockSound := by
  intro s t h hstep
  rcases step_next hstep with ⟨i, b, rest, -, rfl⟩ | ⟨rest, -, rfl⟩ | ⟨w, rest, -, -, -, rfl⟩ |
    ⟨w, rest, -, -, hb, hd⟩ | ⟨u, hu, m⟩
  · exact hostWrite_blockInv (h.withHost rest) i b
  · exact resetBlock_blockInv _
  · exact setOverrun_blockInv (h.withHost rest)
  · exact dispatch_blockInv (h.withHost rest) hb hd
  · rcases hu with ⟨-, rfl⟩ | ⟨rest, -, rfl⟩
    · exact m.blockInv h
    · exact m.blockInv (h.withHost rest)

end Sys2Proof.Machine
end

section
/-! From a sound state the only stop is a dispatch with an undefined operand. -/

namespace Sys2Proof.Machine

/-! ### A decoded word passes the field checks as written on the word's numbers -/

theorem shiftRight_twelve_toNat (w : Word) : (w >>> 12).toNat = (fieldOp w).toNat := by
  rw [BitVec.toNat_ushiftRight, Nat.shiftRight_eq_div_pow, fieldOp_toNat]

theorem shiftRight_six_and_toNat (w : Word) : ((w >>> 6) &&& 0x3F).toNat = (fieldId w).toNat := by
  rw [BitVec.toNat_and, BitVec.toNat_ushiftRight, Nat.shiftRight_eq_div_pow, fieldId_toNat]
  exact Nat.and_two_pow_sub_one_eq_mod _ 6

theorem shiftRight_four_and_toNat (w : Word) : ((w >>> 4) &&& 0x3).toNat = (fieldKind w).toNat := by
  rw [BitVec.toNat_and, BitVec.toNat_ushiftRight, Nat.shiftRight_eq_div_pow, fieldKind_toNat]
  exact Nat.and_two_pow_sub_one_eq_mod _ 2

theorem and_fifteen_toNat (w : Word) : (w &&& 0xF).toNat = (fieldLen w).toNat := by
  rw [BitVec.toNat_and, fieldLen_toNat]
  exact Nat.and_two_pow_sub_one_eq_mod _ 4

/-- A word that decodes passes every check of rule R190 and has its instruction's operand count (rule R72). -/
theorem wordLegal_of_decodeCommand {w : Word} {i : Instr} (h : decodeCommand w = .ok i) :
    wordLegal w = true ∧ operandsOfWord w = operandCount i := by
  have hid := (fieldId w).isLt
  simp only [wordLegal, operandsOfWord, shiftRight_twelve_toNat, shiftRight_six_and_toNat, shiftRight_four_and_toNat,
    and_fifteen_toNat]
  simp only [decodeCommand] at h
  split at h <;> rename_i hop
  case h_11 =>
    split at h
    · cases h
    · rename_i r hr
      have h9 : (fieldId w).toNat ≤ 9 := by
        rw [← csrOfIndex_eq_some hr]; cases r <;> decide
      simp only [noKind_eq_ok, lenIn_eq_ok, Except.ok.injEq] at h
      obtain ⟨hk, ⟨-, hl⟩, rfl⟩ := h
      simp [hop, hk, idLegal, kindLegal, lenLegal, operandCount, h9]; omega
  case h_13 => cases h
  all_goals
    simp only [noId_eq_ok, noKind_eq_ok, lenIn_eq_ok, txKind_eq_ok, rxKind_eq_ok, Except.ok.injEq] at h
    simp only [hop, idLegal, kindLegal, lenLegal]
  case h_1 | h_3 | h_7 => obtain ⟨hk, hl, rfl⟩ := h; simp [hk, operandCount]; omega
  case h_2 | h_10 | h_12 => obtain ⟨hi, hk, hl, rfl⟩ := h; simp [hi, hk, operandCount]; omega
  case h_4 | h_8 => rcases h with ⟨hk, hl, rfl⟩ | ⟨hk, hl, rfl⟩ <;> simp [hk, operandCount] <;> omega
  case h_5 | h_6 | h_9 =>
    rcases h with ⟨hk, hl, rfl⟩ | ⟨hk, hl, rfl⟩ | ⟨hk, hl, rfl⟩ <;> simp [hk, operandCount] <;> omega

/-! ### What answers a next state -/

theorem withOperands_defined {n : Nat} {s : State} (h : (operands n s).isSome = true) (f : List Byte → State) :
    ∃ t, withOperands n s f = .next t := by
  obtain ⟨l, hl⟩ := Option.isSome_iff_exists.mp h
  exact ⟨f l, withOperands_of_some hl f⟩

theorem frame_answers (ty v : BitVec 4) (data : List Byte) (s : State) :
    ∃ t, exec (frameOfType ty v data) s = .next t := ⟨_, exec_frameOfType ty v data s⟩

/-- With its operands defined no instruction stops. -/
theorem exec_answers {i : Instr} {s : State} (h : (operands (operandCount i) s).isSome = true) :
    ∃ t, exec i s = .next t := by
  cases i with
  | cksc | ckse | fencC | fencE | fdecC | fdecE | fdecCE | scanC | scanE | scanCE | sendC | sendE | dreq | cfg =>
    exact withOperands_defined h _
  | _ => exact ⟨_, rfl⟩

theorem pollResponse_answers (s : State) : ∃ t, runFetched (pollResponse s) = .next t := by
  rcases pollResponse_cases s with ⟨-, hp⟩ | ⟨-, -, hp⟩ | ⟨ty, v, data, -, -, -, hp⟩ <;> rw [hp]
  · exact ⟨_, rfl⟩
  · exact ⟨_, rfl⟩
  · exact frame_answers ty v data _

theorem pollConsecutive_answers (s : State) : ∃ t, runFetched (pollConsecutive s) = .next t := by
  rcases pollConsecutive_cases s with ⟨-, hp⟩ | ⟨ty, v, data, -, -, -, hp⟩ <;> rw [hp]
  · exact ⟨_, rfl⟩
  · exact frame_answers ty v data _

/-- The block's own step never stops in a sound state: the operands of a latched word are defined. -/
theorem fetchBlock_answers {s : State} (h : BlockInv s) : ∃ t, runFetched (fetchBlock s) = .next t := by
  cases hb : s.status.busy with
  | false => exact ⟨s, by simp [fetchBlock, hb, runFetched]⟩
  | true =>
    obtain ⟨i, hd, ho⟩ := h.command hb
    have hf : fetchBlock s = fetchBody i s := by simp [fetchBlock, hb, hd]
    rw [hf]
    rcases fetchBody_cases i s with ⟨-, -, -, e⟩ | ⟨-, -, -, e⟩ | ⟨-, e⟩ <;> rw [e]
    · exact pollResponse_answers s
    · exact pollConsecutive_answers s
    · exact exec_answers ho

/-- A dispatch stops only at a legal word one of whose operand bytes holds no value (rules R23, R190). -/
theorem dispatch_answers_or_lacks (w : Word) (s : State) :
    (∃ t, dispatch w s = .next t) ∨
    (dispatch w s = .fault .undefOperand ∧ wordLegal w = true ∧ DbufLacks s (operandsOfWord w)) := by
  unfold dispatch
  cases hd : decodeCommand w with
  | error e => exact .inl ⟨_, rfl⟩
  | ok i =>
    obtain ⟨legal, count⟩ := wordLegal_of_decodeCommand hd
    cases ho : operands (operandCount i) s with
    | some l => exact .inl ⟨_, withOperands_of_some ho _⟩
    | none =>
      refine .inr ⟨withOperands_of_none ho _, legal, ?_⟩
      rw [count]; exact operands_eq_none.mp ho

/-- Settles O45: the block's own step and every host action but a dispatch answer a next state. -/
theorem onlyUndefinedOperandsStop : Obligations.OnlyUndefinedOperandsStop := by
  intro s h
  rw [step_eq]
  unfold fetch
  split
  · exact .inl (fetchBlock_answers h)
  · exact .inl (fetchBlock_answers (h.withHost _))
  · exact .inl ⟨_, rfl⟩
  · rename_i w rest hh
    unfold commandArrives
    split
    · exact .inl ⟨_, rfl⟩
    · cases hb : s.status.busy with
      | true => exact .inl ⟨setOverrun { s with host := rest }, rfl⟩
      | false =>
        rcases dispatch_answers_or_lacks w { s with host := rest } with ha | ⟨hf, legal, lacks⟩
        · exact .inl ha
        · exact .inr ⟨hf, rfl, w, rest, hh, legal, lacks⟩

end Sys2Proof.Machine
end
section
/-! What a step can do to the CSRs, `OVR` and the trace. -/

namespace Sys2Proof.Machine

theorem afterResponsePoll_kept (s : State) : Kept s (afterResponsePoll s) := by constructor <;> simp

theorem afterCfPoll_kept (s : State) : Kept s (afterCfPoll s) := by constructor <;> simp

theorem pollResponse_kept {s t : State} (h : runFetched (pollResponse s) = .next t) : Kept s t := by
  refine (afterResponsePoll_kept s).trans ?_
  rcases pollResponse_cases s with ⟨-, hp⟩ | ⟨-, -, hp⟩ | ⟨ty, v, data, -, -, -, hp⟩ <;> rw [hp] at h
  · cases h
    split
    · exact ⟨rfl, rfl, rfl, rfl, rfl, rfl, [], (List.append_nil _).symm⟩
    · exact failExchange_kept _ _
  · cases h; exact failExchange_kept _ _
  · exact exec_frame_kept ty v data h

theorem pollConsecutive_kept {s t : State} (h : runFetched (pollConsecutive s) = .next t) : Kept s t := by
  refine (afterCfPoll_kept s).trans ?_
  rcases pollConsecutive_cases s with ⟨-, hp⟩ | ⟨ty, v, data, -, -, -, hp⟩ <;> rw [hp] at h
  · cases h; exact unusablePoll_kept _
  · exact exec_frame_kept ty v data h

/-- `CSR`, `OVR` and the trace after a move that is no reset and drops no word (rules R29, R35, R45). -/
structure Ordinary (s t : State) : Prop where
  csr : t.csr = s.csr ∨ ∃ r, s.status.busy = true ∧ decodeCommand s.cur = .ok (.cfg r)
  ovr : t.status.ovr = s.status.ovr
  trace : ∃ es, t.trace = s.trace ++ es

theorem Kept.ordinary {s t : State} (h : Kept s t) : Ordinary s t := ⟨.inl h.csr, h.ovr, h.trace⟩

/-- What a step leaves of these does not depend on the host's queue. -/
theorem Ordinary.of_withHost {s t : State} {hs : List HostAction} (h : Ordinary { s with host := hs } t) :
    Ordinary s t := ⟨h.csr, h.ovr, h.trace⟩

theorem ordinary_of_same {s t : State} (csr : t.csr = s.csr) (ovr : t.status.ovr = s.status.ovr)
    (trace : t.trace = s.trace) : Ordinary s t := ⟨.inl csr, ovr, [], by simp [trace]⟩

/-- The block's own move is ordinary, or it is the body of the reset word. -/
theorem BlockMove.reset_or_ordinary {s t : State} (m : BlockMove s t) :
    s.cur = 0xC000 ∧ t = resetBlock s ∨ Ordinary s t := by
  cases m with
  | idle => exact .inr (ordinary_of_same rfl rfl rfl)
  | refused => exact .inr (ordinary_of_same rfl rfl rfl)
  | body hb i hd np _ he =>
    by_cases hr : i = .rst
    · subst hr; cases he; exact .inl ⟨decodeCommand_eq_rst hd, rfl⟩
    · obtain ⟨csr, ovr, -, -, -, trace⟩ := exec_kept he hr
      refine .inr ⟨csr.imp_right ?_, ovr, trace⟩
      rintro ⟨r, rfl⟩; exact ⟨r, hb, hd⟩
  | response hb len hd hs _ he => exact .inr (pollResponse_kept (runFetched_of_next he)).ordinary
  | consecutive hb len hd hs _ he => exact .inr (pollConsecutive_kept (runFetched_of_next he)).ordinary

theorem dispatch_ordinary {w : Word} {s t : State} (h : dispatch w s = .next t) : Ordinary s t := by
  rcases dispatch_next h with ⟨_, -, rfl⟩ | ⟨_, -, -, rfl⟩ <;> exact ordinary_of_same rfl rfl rfl

theorem hostWrite_ordinary (i : BitVec 4) (b : Byte) (s : State) : Ordinary s (hostWrite i b s) := by
  unfold hostWrite; split <;> exact ordinary_of_same rfl rfl rfl

/-- The host has a word other than the reset word pending, and the block is busy (rule R191). -/
def Drops (s : State) : Prop := s.status.busy = true ∧ ∃ w rest, s.host = .issue w :: rest ∧ w ≠ 0xC000

/-- Everything a step can do to the CSRs, `OVR` and the trace: reset, drop a word, or be ordinary. -/
theorem step_reset_drops_or_ordinary {s t : State} (h : step s = .next t) :
    (¬Drops s ∧ ((∃ rest, s.host = .issue 0xC000 :: rest) ∨ s.cur = 0xC000) ∧
      t.csr = Csrs.reset ∧ t.status.ovr = false ∧ t.trace = s.trace) ∨
    (Drops s ∧ t.csr = s.csr ∧ t.status.ovr = true ∧ t.trace = s.trace) ∨
    (¬Drops s ∧ Ordinary s t) := by
  rcases step_next h with ⟨i, b, rest, hh, rfl⟩ | ⟨rest, hh, rfl⟩ | ⟨w, rest, hh, hw, hb, rfl⟩ |
    ⟨w, rest, hh, hw, hb, hd⟩ | ⟨u, hu, m⟩
  · exact .inr (.inr ⟨by simp [Drops, hh], (hostWrite_ordinary i b _).of_withHost⟩)
  · exact .inl ⟨by simp [Drops, hh], .inl ⟨rest, hh⟩, rfl, rfl, rfl⟩
  · exact .inr (.inl ⟨⟨hb, w, rest, hh, hw⟩, rfl, rfl, rfl⟩)
  · exact .inr (.inr ⟨by simp [Drops, hb], (dispatch_ordinary hd).of_withHost⟩)
  · have hn : ¬Drops s := by rcases hu with ⟨hh, -⟩ | ⟨_, hh, -⟩ <;> simp [Drops, hh]
    rcases m.reset_or_ordinary with ⟨hc, rfl⟩ | ho
    · rcases hu with ⟨-, rfl⟩ | ⟨_, -, rfl⟩ <;> exact .inl ⟨hn, .inr hc, rfl, rfl, rfl⟩
    · rcases hu with ⟨-, rfl⟩ | ⟨_, -, rfl⟩
      · exact .inr (.inr ⟨hn, ho⟩)
      · exact .inr (.inr ⟨hn, ho.of_withHost⟩)

/-- Settles O46: only a reset and a CFG in progress make a CSR differ. -/
theorem csrsChangeOnlyByCfgAndReset : Obligations.CsrsChangeOnlyByCfgAndReset := by
  intro s t h hne
  rcases step_reset_drops_or_ordinary h with ⟨-, hr, csr, -⟩ | ⟨-, csr, -⟩ | ⟨-, ho⟩
  · exact .inr ⟨csr, hr⟩
  · exact absurd csr hne
  · exact .inl (ho.csr.resolve_left hne)

/-- Settles O47: a drop leaves `OVR` 1, a reset 0, and every other step leaves it as it was. -/
theorem overrunIsSticky : Obligations.OverrunIsSticky := by
  intro s t h
  rcases step_reset_drops_or_ordinary h with ⟨hn, hr, -, ovr, -⟩ | ⟨hd, -, ovr, -⟩ | ⟨hn, ho⟩
  · exact ⟨fun w rest hb hh hw => absurd ⟨hb, w, rest, hh, hw⟩ hn, by simp [ovr], fun _ _ => hr⟩
  · exact ⟨fun _ _ _ _ _ => ovr, fun _ _ => hd, by simp [ovr]⟩
  · exact ⟨fun w rest hb hh hw => absurd ⟨hb, w, rest, hh, hw⟩ hn, by simp +contextual [ho.ovr],
      by simp +contextual [ho.ovr]⟩

/-- Settles O50: reset and a drop keep the trace, every other step appends to it. -/
theorem traceOnlyGrows : Obligations.TraceOnlyGrows := by
  intro s t h
  rcases step_reset_drops_or_ordinary h with ⟨-, -, -, -, trace⟩ | ⟨-, -, -, trace⟩ | ⟨-, ho⟩
  · exact ⟨[], by simp [trace]⟩
  · exact ⟨[], by simp [trace]⟩
  · exact ho.trace

end Sys2Proof.Machine
end

section
/-! Which instructions write which register. -/

namespace Sys2Proof.Machine

/-- CKSC writes `RBYTE` and nothing else of the result (rule R108). -/
theorem exec_cksc_next {len : BitVec 4} {s t : State} (h : exec (.cksc len) s = .next t) :
    ∃ b, t = finishOk { s with rbyte := b } := by
  obtain ⟨d, -, rfl⟩ := withOperands_next h
  exact ⟨_, rfl⟩

theorem exec_cfg_next {r : Csr} {s t : State} (h : exec (.cfg r) s = .next t) :
    (∃ c, t = finishOk { s with csr := c }) ∨ t = refuse s := by
  obtain ⟨d, -, rfl⟩ := withOperands_next h
  split
  · exact .inl ⟨_, rfl⟩
  · exact .inr rfl

/-- `RBYTE` changes only by PID, CKSC, CKSE and FENC (rule R30). -/
theorem exec_rbyte {i : Instr} {s t : State} (h : exec i s = .next t) (hr : i ≠ .rst) (pid : ∀ id, i ≠ .pid id)
    (cksc : ∀ len, i ≠ .cksc len) (ckse : ∀ id len, i ≠ .ckse id len) (fencC : ∀ id len, i ≠ .fencC id len)
    (fencE : ∀ id len, i ≠ .fencE id len) : t.rbyte = s.rbyte := by
  cases hf : isFrame i with
  | true =>
    obtain ⟨ty, v, data, rfl⟩ := frameOfType_of_isFrame hf
    exact (exec_frame_kept ty v data h).rbyte
  | false =>
    rcases exec_command h hf hr with ⟨p, _, hi, -⟩ | ⟨id, _, _, hi, -⟩ | ⟨_, _, _, -, -, rfl⟩ | ⟨_, _, _, -, rfl⟩ |
      ⟨_, -, rfl⟩ | ⟨_, _, _, -, rfl⟩ | ⟨_, _, -, rfl⟩ | ⟨_, _, -, rfl⟩ | ⟨_, _, -, ⟨-, rfl⟩ | rfl⟩
    · rcases hi with hi | ⟨l, hi⟩ | ⟨l, hi⟩
      · exact absurd hi (pid p)
      · exact absurd hi (cksc l)
      · exact absurd hi (ckse p l)
    · rcases hi with ⟨l, hi⟩ | ⟨l, hi⟩
      · exact absurd hi (fencC id l)
      · exact absurd hi (fencE id l)
    · simp [decodeFrame]
    · simp [scanCapture]
    · simp
    · simp
    · simp [pollSlave]
    · simp [sendRequest]
    · rfl
    · rfl

/-- CKSC and CFG leave `RPID` (rule R31). -/
theorem exec_rpid {i : Instr} {s t : State} (h : exec i s = .next t)
    (hi : (∃ len, i = .cksc len) ∨ ∃ r, i = .cfg r) : t.rpid = s.rpid := by
  rcases hi with ⟨len, rfl⟩ | ⟨r, rfl⟩
  · obtain ⟨b, rfl⟩ := exec_cksc_next h; rfl
  · rcases exec_cfg_next h with ⟨c, rfl⟩ | rfl <;> rfl

/-- The instructions with no byte result leave `RLEN` and `RBUF` (rules R32, R33). -/
theorem exec_result {i : Instr} {s t : State} (h : exec i s = .next t)
    (hi : (∃ id, i = .pid id) ∨ (∃ len, i = .cksc len) ∨ (∃ id len, i = .ckse id len) ∨ (∃ id, i = .hdr id) ∨
      (∃ id len, i = .sendC id len) ∨ (∃ id len, i = .sendE id len) ∨ ∃ r, i = .cfg r) :
    t.rlen = s.rlen ∧ t.rbuf = s.rbuf := by
  rcases hi with ⟨id, rfl⟩ | ⟨len, rfl⟩ | ⟨id, len, rfl⟩ | ⟨id, rfl⟩ | ⟨id, len, rfl⟩ | ⟨id, len, rfl⟩ | ⟨r, rfl⟩
  · cases h; exact ⟨rfl, rfl⟩
  · obtain ⟨b, rfl⟩ := exec_cksc_next h; exact ⟨rfl, rfl⟩
  · obtain ⟨d, -, rfl⟩ := withOperands_next h; exact ⟨rfl, rfl⟩
  · cases h; simp
  · obtain ⟨d, -, rfl⟩ := withOperands_next h; simp
  · obtain ⟨d, -, rfl⟩ := withOperands_next h; simp
  · rcases exec_cfg_next h with ⟨c, rfl⟩ | rfl <;> exact ⟨rfl, rfl⟩

/-- Settles O48, register by register. -/
theorem eachRegisterHasItsWriters : Obligations.EachRegisterHasItsWriters := by
  intro i s t h hr
  obtain ⟨csr, ovr, dbuf, cur, host, -⟩ := exec_kept h hr
  refine ⟨fun a => by rw [dbuf], cur, host, ovr, exec_rbyte h hr, exec_rpid h, fun hi => ?_, fun hd hf => ?_, fun hc => ?_⟩
  · obtain ⟨rlen, rbuf⟩ := exec_result h hi
    exact ⟨rlen, fun a => by rw [rbuf]⟩
  · exact (exec_command_ends h hf hr hd).2
  · exact csr.resolve_right fun ⟨r, hi⟩ => hc r hi

end Sys2Proof.Machine
end

section
/-! The step of a latched command, the reserved CSR indices, and the layout of `STATUS`. -/

namespace Sys2Proof.Machine

/-- Settles O8: of the three cases of `fetchBody_cases` the hypothesis leaves the one that is no poll. -/
theorem stepRunsTheLatchedCommand : Obligations.StepRunsTheLatchedCommand := by
  intro s i rest hb hrun hd _ np
  have hd : decodeCommand s.cur = .ok i := hd
  have hstep : step s = runFetched (fetchBody i { s with host := rest }) := by
    simp [step_of_run hrun, fetchBlock, hb, hd]
  rw [hstep]
  rcases fetchBody_cases i { s with host := rest } with ⟨len, hi, ht, -⟩ | ⟨len, hi, ht, -⟩ | ⟨-, hf⟩
  · exact absurd ht (np ⟨len, hi⟩).1
  · exact absurd ht (np ⟨len, hi⟩).2
  · rw [hf]; rfl

/-- The indices 0x0A..0x3F name no CSR (rule R38). -/
theorem csrOfIndex_reserved {i : BitVec 6} (h : 0x0A ≤ i.toNat) : csrOfIndex i = none := by
  cases hc : csrOfIndex i with
  | none => rfl
  | some r =>
    rw [← csrOfIndex_eq_some hc] at h
    revert h; cases r <;> decide

/-- A word the decoder rejects, arriving while idle, is refused (rule R192). -/
theorem step_of_rejected {s : State} {w : Word} {rest : List HostAction} {e : Reject} (hh : s.host = .issue w :: rest)
    (hb : s.status.busy = false) (hd : decodeCommand w = .error e) :
    step s = .next (refuse (startCommand w { s with host := rest })) := by
  simp [step, fetch, hh, commandArrives, hd, hb, dispatch]

/-- Settles O41: no index of the range names a CSR, so the read is 0 and the decoder rejects the word. -/
theorem reservedCsrIndices : Obligations.ReservedCsrIndices := by
  intro s i hi
  have hc := csrOfIndex_reserved hi
  refine ⟨by simp [readPort, hc], fun rest hb hh => ?_⟩
  have hd : decodeCommand (packWord 0xB i 0 0) = .error .frameId := by
    simp only [decodeCommand, fieldOp_packWord, fieldId_packWord, hc]
    rfl
  exact ⟨_, step_of_rejected hh hb hd, rfl, rfl, rfl⟩

/-! ### The status word -/

/-- The range of each field of `STATUS`. -/
theorem Status.field_bounds (st : Status) : st.tstate.code.toNat < 8 ∧ st.ovr.toNat < 2 ∧ st.rclass.code.toNat < 4 ∧
    st.ckok.toNat < 2 ∧ st.fkind.code.toNat < 16 ∧ st.fail.toNat < 2 ∧ st.done.toNat < 2 ∧ st.busy.toNat < 2 :=
  ⟨st.tstate.code.isLt, st.ovr.toNat_lt, st.rclass.code.isLt, st.ckok.toNat_lt, st.fkind.code.isLt, st.fail.toNat_lt,
    st.done.toNat_lt, st.busy.toNat_lt⟩

/-- `STATUS` as a number: each field at its weight (rule R24). -/
theorem Status.word_toNat (st : Status) : st.word.toNat =
    st.tstate.code.toNat * 2048 + st.ovr.toNat * 1024 + st.rclass.code.toNat * 256 + st.ckok.toNat * 128 +
      st.fkind.code.toNat * 8 + st.fail.toNat * 4 + st.done.toNat * 2 + st.busy.toNat := by
  have hb := st.field_bounds
  unfold Status.word
  simp only [BitVec.toNat_append, BitVec.toNat_ofBool]
  repeat rw [← Nat.shiftLeft_add_eq_or_of_lt (by omega)]
  simp [Nat.shiftLeft_eq]
  omega

/-- A bit is read off the word's number. -/
theorem getLsbD_eq_of_toNat {w : Word} {k : Nat} {b : Bool} (h : w.toNat / 2 ^ k % 2 = b.toNat) : w.getLsbD k = b := by
  rw [BitVec.getLsbD, Nat.testBit_eq_decide_div_mod_eq, h]
  cases b <;> rfl

/-- A field is read off the word's number. -/
theorem extractLsb'_toNat_eq {w : Word} (k n : Nat) : (w.extractLsb' k n).toNat = w.toNat / 2 ^ k % 2 ^ n := by
  rw [BitVec.extractLsb'_toNat, Nat.shiftRight_eq_div_pow]

/-- Settles O42: every field is read off the number of the word. -/
theorem statusWordLayout : Obligations.StatusWordLayout := by
  intro s
  have hw := s.status.word_toNat
  have hb := s.status.field_bounds
  have hk : (s.status.word.extractLsb' 3 4).toNat = s.status.fkind.code.toNat := by
    rw [extractLsb'_toNat_eq]; omega
  have hc : (s.status.word.extractLsb' 8 2).toNat = s.status.rclass.code.toNat := by
    rw [extractLsb'_toNat_eq]; omega
  have ht : (s.status.word.extractLsb' 11 3).toNat = s.status.tstate.code.toNat := by
    rw [extractLsb'_toNat_eq]; omega
  refine ⟨s.status.word, rfl, getLsbD_eq_of_toNat ?_, getLsbD_eq_of_toNat ?_, getLsbD_eq_of_toNat ?_, ?_,
    getLsbD_eq_of_toNat ?_, ?_, getLsbD_eq_of_toNat ?_, ?_, BitVec.eq_of_toNat_eq ?_⟩
  · omega
  · omega
  · omega
  · rw [hk]; cases s.status.fkind <;> rfl
  · omega
  · rw [hc]; cases s.status.rclass <;> rfl
  · omega
  · rw [ht]; cases s.status.tstate <;> rfl
  · rw [extractLsb'_toNat_eq]
    show _ = 0
    omega

end Sys2Proof.Machine
end

section
/-! A host write to `DBUF`. -/

namespace Sys2Proof.Machine

/-- A host write at the head of the queue is the whole step (rule R66). -/
theorem step_of_write {s : State} {i : BitVec 4} {b : Byte} {rest : List HostAction} (h : s.host = .write i b :: rest) :
    step s = .next (hostWrite i b { s with host := rest }) := by
  simp [step_eq, fetch, h, runFetched]

theorem hostWrite_of_busy (i : BitVec 4) (b : Byte) {s : State} (h : s.status.busy = true) : hostWrite i b s = s := by
  simp [hostWrite, h]

theorem hostWrite_of_idle (i : BitVec 4) (b : Byte) {s : State} (h : s.status.busy = false) :
    hostWrite i b s = { s with dbuf := s.dbuf.write i.toNat b } := by
  simp [hostWrite, h]

/-- Settles O10: the step is the write, which `BUSY` gates; the reads back are the memory's read-over-write laws. -/
theorem hostWriteToDbuf : Obligations.HostWriteToDbuf := by
  intro s i b rest hh
  rw [step_of_write hh]
  refine ⟨fun busy => ?_, fun idle => ?_⟩
  · rw [hostWrite_of_busy i b (s := { s with host := rest }) busy]
  · rw [hostWrite_of_idle i b (s := { s with host := rest }) idle]
    exact ⟨_, rfl, rfl, Memory.read_write_same s.dbuf i.toNat b, fun _ ha => Memory.read_write_other s.dbuf b ha⟩

end Sys2Proof.Machine
end

section
/-! Every command word is admitted by one row of the opcode table or refused (rule R78). -/

namespace Sys2Proof

/-! ### A row's mask and match, field by field -/

theorem fieldOp_and (v w : Word) : fieldOp (v &&& w) = fieldOp v &&& fieldOp w := by
  simp [fieldOp, BitVec.extractLsb'_and]
theorem fieldId_and (v w : Word) : fieldId (v &&& w) = fieldId v &&& fieldId w := by
  simp [fieldId, BitVec.extractLsb'_and]
theorem fieldKind_and (v w : Word) : fieldKind (v &&& w) = fieldKind v &&& fieldKind w := by
  simp [fieldKind, BitVec.extractLsb'_and]
theorem fieldLen_and (v w : Word) : fieldLen (v &&& w) = fieldLen v &&& fieldLen w := by
  simp [fieldLen, BitVec.extractLsb'_and]

/-- Two words are equal when their fields are. -/
theorem word_eq_iff_fields {v w : Word} : v = w ↔
    fieldOp v = fieldOp w ∧ fieldId v = fieldId w ∧ fieldKind v = fieldKind w ∧ fieldLen v = fieldLen w := by
  refine ⟨fun h => by simp only [h, and_self], fun ⟨hop, hid, hkind, hlen⟩ => ?_⟩
  rw [← packWord_fields v, hop, hid, hkind, hlen, packWord_fields]

/-- Mask and match hold field by field. -/
theorem CommandRow.selects_iff {r : CommandRow} {w : Word} : r.selects w = true ↔
    fieldOp w &&& fieldOp r.mask = fieldOp r.bits ∧ fieldId w &&& fieldId r.mask = fieldId r.bits ∧
    fieldKind w &&& fieldKind r.mask = fieldKind r.bits ∧ fieldLen w &&& fieldLen r.mask = fieldLen r.bits := by
  simp only [CommandRow.selects, beq_iff_eq, word_eq_iff_fields, fieldOp_and, fieldId_and, fieldKind_and, fieldLen_and]

/-- What a row's admission of a packed word says of the fields. -/
theorem CommandRow.admits_packWord {r : CommandRow} {op : BitVec 4} {id : BitVec 6} {kind : BitVec 2} {len : BitVec 4} :
    r.admits (packWord op id kind len) = true ↔
      (op &&& fieldOp r.mask = fieldOp r.bits ∧ id &&& fieldId r.mask = fieldId r.bits ∧
        kind &&& fieldKind r.mask = fieldKind r.bits ∧ len &&& fieldLen r.mask = fieldLen r.bits) ∧
      id.toNat ≤ r.idMax ∧ r.lenMin ≤ len.toNat ∧ len.toNat ≤ r.lenMax := by
  simp only [CommandRow.admits, CommandRow.selects_iff, Bool.and_eq_true, decide_eq_true_eq, fieldOp_packWord,
    fieldId_packWord, fieldKind_packWord, fieldLen_packWord]

/-! The table's masks hold a field whole or not at all. -/

theorem and_fullOp (op : BitVec 4) : op &&& 15#4 = op := BitVec.and_allOnes
theorem and_fullId (id : BitVec 6) : id &&& 63#6 = id := BitVec.and_allOnes
theorem and_fullKind (kind : BitVec 2) : kind &&& 3#2 = kind := BitVec.and_allOnes

/-! ### No two rows select one word -/

/-- Rows that select one word agree where both masks look, and no two different rows of the table do. -/
theorem commandRow_eq_of_selects {r q : CommandRow} (hr : r ∈ commandRows) (hq : q ∈ commandRows) {w : Word}
    (hrw : r.selects w = true) (hqw : q.selects w = true) : r = q := by
  have hcommon : r.bits &&& q.mask = q.bits &&& r.mask := by
    simp only [CommandRow.selects, beq_iff_eq] at hrw hqw
    rw [← hrw, ← hqw, BitVec.and_assoc, BitVec.and_comm r.mask, BitVec.and_assoc]
  have hdisjoint : ∀ r ∈ commandRows, ∀ q ∈ commandRows, r.bits &&& q.mask = q.bits &&& r.mask → r = q := by
    decide
  exact hdisjoint r hr q hq hcommon

/-! ### The table and the decoder agree -/

/-- The CSRs' indices are 0..9 (rule R34). -/
theorem exists_csrOfIndex_iff (id : BitVec 6) : (∃ r, csrOfIndex id = some r) ↔ id.toNat ≤ 9 := by
  rw [← Option.isSome_iff_exists]
  revert id; decide

/-- What a word of opcode 0xB decodes to (rules R74 to R76). -/
theorem decodeCommand_cfg_iff {id : BitVec 6} {kind : BitVec 2} {len : BitVec 4} {i : Instr} :
    decodeCommand (packWord 0xB id kind len) = .ok i ↔
      (∃ r, csrOfIndex id = some r ∧ .cfg r = i) ∧ kind = 0 ∧ len = 0 := by
  simp only [decodeCommand, fieldOp_packWord, fieldId_packWord, fieldKind_packWord, fieldLen_packWord]
  cases csrOfIndex id with
  | none => simp
  | some r => simp [BitVec.toNat_eq_nat, and_comm, and_assoc]

theorem opcode_cases_of_ne_cfg {op : BitVec 4} (h : op ≠ 0xB) :
    op = 0x0 ∨ op = 0x1 ∨ op = 0x2 ∨ op = 0x3 ∨ op = 0x4 ∨ op = 0x5 ∨ op = 0x6 ∨ op = 0x7 ∨ op = 0x8 ∨ op = 0x9 ∨
      op = 0xA ∨ op = 0xC ∨ op = 0xD ∨ op = 0xE ∨ op = 0xF := by
  revert op; decide

/-- Opcode by opcode, the rows of the table are the alternatives the decoder's branch offers: the same fields pass
and the same mnemonic is read. -/
theorem admitted_iff_decodes (op : BitVec 4) (id : BitVec 6) (kind : BitVec 2) (len : BitVec 4) (m : String) :
    (∃ r ∈ commandRows, r.admits (packWord op id kind len) = true ∧ r.mnemonic = m) ↔
      ∃ i, decodeCommand (packWord op id kind len) = .ok i ∧ i.mnemonic = m := by
  have hid : id.toNat ≤ 63 := Nat.le_of_lt_succ id.isLt
  simp only [commandRows, List.mem_cons, exists_eq_or_imp, List.not_mem_nil, CommandRow.admits_packWord]
  -- only the fields of the rows' numerals are left to compute
  simp only [fieldOp, fieldId, fieldKind, fieldLen]
  by_cases hcfg : op = 0xB
  · subst hcfg
    simp only [decodeCommand_cfg_iff, ← exists_csrOfIndex_iff]
    simp +contextual [Instr.mnemonic, and_fullOp, and_fullKind, BitVec.toNat_eq_nat, and_comm, and_left_comm]
  · rcases opcode_cases_of_ne_cfg hcfg with rfl | rfl | rfl | rfl | rfl | rfl | rfl | rfl | rfl | rfl | rfl | rfl |
      rfl | rfl | rfl
    all_goals
      simp [decodeCommand, Instr.mnemonic, hid, and_fullOp, and_fullId, and_fullKind, BitVec.toNat_eq_nat, and_assoc,
        or_and_right, exists_or]

/-- Settles O3: at the word's own fields, `admitted_iff_decodes` is both directions. -/
theorem everyWordIsOneRowOrRefused : Obligations.EveryWordIsOneRowOrRefused := by
  intro w
  have hagree := admitted_iff_decodes (fieldOp w) (fieldId w) (fieldKind w) (fieldLen w)
  rw [packWord_fields] at hagree
  exact ⟨fun i hi => (hagree i.mnemonic).mpr ⟨i, hi, rfl⟩,
    fun r hr ha => (hagree r.mnemonic).mp ⟨r, hr, ha, rfl⟩,
    fun r hr q hq => commandRow_eq_of_selects hr hq⟩

end Sys2Proof
end

section
/-! The packed command word (rule R92), and the decoding of an encoded instruction. -/

namespace Sys2Proof

/-- The concatenation of the fields is their shifted disjunction (rule R92). -/
theorem packWord_toNat_or (op : BitVec 4) (id : BitVec 6) (kind : BitVec 2) (len : BitVec 4) :
    (packWord op id kind len).toNat =
      (op.toNat <<< 12) ||| (id.toNat <<< 6) ||| (kind.toNat <<< 4) ||| len.toNat := by
  simp only [packWord, BitVec.toNat_append, Nat.shiftLeft_or_distrib, ← Nat.shiftLeft_add]

/-- Settles O4: the formula is `packWord_toNat_or`, the examples are computed. -/
theorem commandWordFormula : Obligations.CommandWordFormula :=
  ⟨packWord_toNat_or, by decide⟩

/-- Every well-formed instruction decodes from its encoding: the lemmas of `Laws.RoundTrip`, constructor by
constructor. -/
theorem decode_encode (i : Instr) : Laws.RoundTrip.Statement i :=
  match i with
  | .pid id => Laws.RoundTrip.pid id
  | .cksc len => Laws.RoundTrip.cksc len
  | .ckse id len => Laws.RoundTrip.ckse id len
  | .fencC id len => Laws.RoundTrip.fencC id len
  | .fencE id len => Laws.RoundTrip.fencE id len
  | .fdecC id len => Laws.RoundTrip.fdecC id len
  | .fdecE id len => Laws.RoundTrip.fdecE id len
  | .fdecCE id len => Laws.RoundTrip.fdecCE id len
  | .scanC id len => Laws.RoundTrip.scanC id len
  | .scanE id len => Laws.RoundTrip.scanE id len
  | .scanCE id len => Laws.RoundTrip.scanCE id len
  | .hdr id => Laws.RoundTrip.hdr id
  | .sendC id len => Laws.RoundTrip.sendC id len
  | .sendE id len => Laws.RoundTrip.sendE id len
  | .recvC id => Laws.RoundTrip.recvC id
  | .recvE id => Laws.RoundTrip.recvE id
  | .recvCE id => Laws.RoundTrip.recvCE id
  | .dreq len => Laws.RoundTrip.dreq len
  | .cfg r => Laws.RoundTrip.cfg r
  | .rst => Laws.RoundTrip.rst
  | .sf n data => Laws.RoundTrip.sf n data
  | .ff hi data => Laws.RoundTrip.ff hi data
  | .cf seq data => Laws.RoundTrip.cf seq data
  | .fc sub data => Laws.RoundTrip.fc sub data
  | .pciRsv4 v data => Laws.RoundTrip.pciRsv4 v data
  | .pciRsv5 v data => Laws.RoundTrip.pciRsv5 v data
  | .pciRsv6 v data => Laws.RoundTrip.pciRsv6 v data
  | .pciRsv7 v data => Laws.RoundTrip.pciRsv7 v data
  | .pciRsv8 v data => Laws.RoundTrip.pciRsv8 v data
  | .pciRsv9 v data => Laws.RoundTrip.pciRsv9 v data
  | .pciRsvA v data => Laws.RoundTrip.pciRsvA v data
  | .pciRsvB v data => Laws.RoundTrip.pciRsvB v data
  | .pciRsvC v data => Laws.RoundTrip.pciRsvC v data
  | .pciRsvD v data => Laws.RoundTrip.pciRsvD v data
  | .pciRsvE v data => Laws.RoundTrip.pciRsvE v data
  | .pciRsvF v data => Laws.RoundTrip.pciRsvF v data

theorem decodeCommand_of_encode {i : Instr} {w : Word} (he : encode i = .command w) (hwf : i.wellFormed = true) :
    decodeCommand w = .ok i := by
  have h := decode_encode i hwf
  rwa [he] at h

end Sys2Proof
end

section
/-! The host actions of an assembly line (rule R90). -/

namespace Sys2Proof.Machine

/-! ### A run of moves -/

theorem moves_zero (s : State) : moves 0 s = some s := rfl

theorem moves_succ_of_step {s t : State} (h : step s = .next t) (k : Nat) : moves (k + 1) s = moves k t := by
  simp only [moves, h]

theorem moves_add {s t : State} {m : Nat} (h : moves m s = some t) (k : Nat) : moves (m + k) s = moves k t := by
  induction m generalizing s with
  | zero => cases h; rw [Nat.zero_add]
  | succ m ih =>
    rw [Nat.succ_add]
    cases hs : step s with
    | next u => rw [moves_succ_of_step hs] at h ⊢; exact ih h
    | fault r => simp [moves, hs] at h
    | refused r => simp [moves, hs] at h

/-! ### A run of writes to an indexed space -/

/-- `MemWrite` of the bytes `l` from index `a` on, one by one (rule R90). -/
def Memory.writeSeq (m : Memory) (a : Nat) : List Byte → Memory
  | [] => m
  | b :: rest => Memory.writeSeq (m.write a b) (a + 1) rest

/-- Indices outside the run keep their byte. -/
theorem Memory.read_writeSeq_outside {l : List Byte} {m : Memory} {a c : Nat} (h : c < a ∨ a + l.length ≤ c) :
    (m.writeSeq a l).read c = m.read c := by
  induction l generalizing m a with
  | nil => rfl
  | cons b rest ih =>
    rw [List.length_cons] at h
    rw [Memory.writeSeq, ih (by omega), Memory.read_write_other m b (by omega)]

/-- The run's indices read as its bytes. -/
theorem Memory.read_writeSeq_inside {l : List Byte} {m : Memory} {a k : Nat} (h : k < l.length) :
    (m.writeSeq a l).read (a + k) = l[k]? := by
  induction l generalizing m a k with
  | nil => cases h
  | cons b rest ih =>
    rw [Memory.writeSeq]
    cases k with
    | zero => rw [Memory.read_writeSeq_outside (by omega)]; exact Memory.read_write_same m a b
    | succ k =>
      rw [List.getElem?_cons_succ, ← ih (Nat.lt_of_succ_lt_succ h), Nat.add_assoc a 1 k, Nat.add_comm 1 k]

/-! ### The host's writes and its word -/

/-- From an idle block the operand writes are moves that leave the bytes in `DBUF` (rules R66, R90). -/
theorem moves_writesFrom (bytes : List Byte) {s : State} {a : Nat} {rest : List HostAction}
    (hb : s.status.busy = false) (ha : a + bytes.length ≤ 16) (hh : s.host = writesFrom a bytes ++ rest) :
    moves bytes.length s = some { s with host := rest, dbuf := s.dbuf.writeSeq a bytes } := by
  induction bytes generalizing s a with
  | nil => cases hh; rfl
  | cons b bytes ih =>
    rw [List.length_cons] at ha ⊢
    have hindex : (BitVec.ofNat 4 a).toNat = a := by rw [BitVec.toNat_ofNat]; omega
    rw [moves_succ_of_step (step_of_write hh), hostWrite_of_idle _ b (by exact hb), hindex]
    exact ih hb (by omega) rfl

/-- A word but the reset word that arrives while idle is dispatched (rule R190). -/
theorem commandArrives_of_idle {s : State} {w : Word} (hb : s.status.busy = false) (hr : decodeCommand w ≠ .ok .rst) :
    commandArrives w s = .settled (dispatch w s) := by
  unfold commandArrives
  split
  · exact absurd ‹_› hr
  · simp [hb]

theorem step_of_issue {s : State} {w : Word} {rest : List HostAction} (hh : s.host = .issue w :: rest) :
    step s = runFetched (commandArrives w { s with host := rest }) := by
  simp only [step_eq, fetch, hh]

/-- A command whose operands `DBUF` holds is latched at its dispatch (rule R190). -/
theorem dispatch_of_dbufHolds {s : State} {w : Word} {i : Instr} {bytes : List Byte} (hd : decodeCommand w = .ok i)
    (hlen : bytes.length = operandCount i) (hbytes : DbufHolds s bytes) : dispatch w s = .next (startCommand w s) := by
  have hops : operands (operandCount i) s = some bytes :=
    operands_eq_some.mpr ⟨hlen, fun k hk => hbytes k (hlen ▸ hk)⟩
  simp only [dispatch, hd, withOperands_of_some hops]

/-- No command reads more than 15 bytes (rule R72). -/
theorem operandsOfWord_le (w : Word) : operandsOfWord w ≤ 15 := by
  have := (fieldLen w).isLt
  unfold operandsOfWord
  rw [and_fifteen_toNat]
  split <;> omega

/-- Settles O11: the writes, then the dispatch of the word whose operands they left in `DBUF`. -/
theorem assemblyLineLatchesItsCommand : Obligations.AssemblyLineLatchesItsCommand := by
  intro s i w bytes hb he hwf hr hlen hh
  have hd : decodeCommand w = .ok i := decodeCommand_of_encode he hwf
  have hh : s.host = writesFrom 0 bytes ++ [.issue w] := by rw [hh]; simp only [assemble, commandWord, he]
  have hmax : 0 + bytes.length ≤ 16 := by have := operandsOfWord_le w; omega
  have hwrites := moves_writesFrom bytes hb hmax hh
  have hholds : DbufHolds { s with host := [], dbuf := s.dbuf.writeSeq 0 bytes } bytes := fun k hk => by
    simpa using Memory.read_writeSeq_inside (m := s.dbuf) (a := 0) hk
  have hlatch : step { s with host := [.issue w], dbuf := s.dbuf.writeSeq 0 bytes } =
      .next (startCommand w { s with host := [], dbuf := s.dbuf.writeSeq 0 bytes }) := by
    rw [step_of_issue rfl, commandArrives_of_idle (by exact hb) (by simpa [hd] using hr)]
    exact dispatch_of_dbufHolds hd (hlen.trans (wordLegal_of_decodeCommand hd).2) hholds
  refine ⟨startCommand w { s with host := [], dbuf := s.dbuf.writeSeq 0 bytes }, ?_, hholds,
    fun a ha => Memory.read_writeSeq_outside (.inr (by omega)), rfl⟩
  rw [moves_add hwrites, moves_succ_of_step hlatch, moves_zero]

end Sys2Proof.Machine
end

section
/-! The checksum in closed form (rule R103), and the verdicts of `validate` (rules R105, R106). -/

namespace Sys2Proof.Machine

/-! ### The end-around carry as one reduction -/

theorem foldSum_of_le {n : Nat} (h : n ≤ 255) : foldSum n = n := by
  unfold foldSum; split <;> omega

theorem foldSum_le (n : Nat) : foldSum n ≤ 255 := by
  unfold foldSum; split <;> omega

/-- The sum may be reduced before it is added to. -/
theorem foldSum_add (m n : Nat) : foldSum (foldSum m + n) = foldSum (m + n) := by
  unfold foldSum; split <;> split <;> split <;> omega

theorem foldSum_eq_zero {n : Nat} : foldSum n = 0 ↔ n = 0 := by
  unfold foldSum; split <;> omega

theorem foldSum_eq_max {n : Nat} : foldSum n = 255 ↔ 0 < n ∧ n % 255 = 0 := by
  unfold foldSum; split <;> omega

theorem foldSum_add_ne {k : Nat} (hk : k % 255 ≠ 0) (n : Nat) : foldSum (n + k) ≠ foldSum n := by
  unfold foldSum; split <;> split <;> omega

theorem sumStep_eq_foldSum {s : Nat} (hs : s ≤ 255) (b : Byte) : sumStep s b = foldSum (s + b.toNat) := by
  have := b.isLt
  unfold sumStep foldSum; split <;> split <;> omega

@[simp] theorem byteSum_nil : byteSum [] = 0 := rfl
@[simp] theorem byteSum_cons (b : Byte) (data : List Byte) : byteSum (b :: data) = b.toNat + byteSum data := by
  simp [byteSum]

theorem byteSum_perm {data data' : List Byte} (h : data.Perm data') : byteSum data = byteSum data' :=
  (h.map BitVec.toNat).sum_eq

/-- The invariant of rule R103: the running sum is the reduced sum of what was read so far. -/
theorem foldl_sumStep (data : List Byte) {s : Nat} (hs : s ≤ 255) : data.foldl sumStep s = foldSum (s + byteSum data) := by
  induction data generalizing s with
  | nil => simp [foldSum_of_le hs]
  | cons b rest ih =>
    calc (b :: rest).foldl sumStep s
      _ = foldSum (sumStep s b + byteSum rest) := ih (sumStep_le hs b)
      _ = foldSum (s + byteSum (b :: rest)) := by
        rw [sumStep_eq_foldSum hs, foldSum_add, byteSum_cons, Nat.add_assoc]

/-! ### The checksum -/

theorem checksum_toNat (data : List Byte) (seed : Byte) :
    (checksum data seed).toNat = 255 - foldSum (seed.toNat + byteSum data) := by
  have hseed : seed.toNat ≤ 255 := by have := seed.isLt; omega
  have hle := foldSum_le (seed.toNat + byteSum data)
  simp only [checksum, foldl_sumStep data hseed, BitVec.toNat_not, BitVec.toNat_ofNat]
  omega

/-- A checksum is decided by its reduced sum. -/
theorem checksum_eq_iff {data data' : List Byte} {seed seed' : Byte} :
    checksum data seed = checksum data' seed' ↔
      foldSum (seed.toNat + byteSum data) = foldSum (seed'.toNat + byteSum data') := by
  have h := foldSum_le (seed.toNat + byteSum data)
  have h' := foldSum_le (seed'.toNat + byteSum data')
  rw [← BitVec.toNat_inj, checksum_toNat, checksum_toNat]
  omega

/-- Sums that differ by no multiple of 255 have different checksums. -/
theorem checksum_ne_of_sums {data data' : List Byte} {seed seed' : Byte} {k : Nat} (hk : k % 255 ≠ 0)
    (h : seed'.toNat + byteSum data' = seed.toNat + byteSum data + k) : checksum data seed ≠ checksum data' seed' := by
  rw [ne_eq, checksum_eq_iff, h]
  exact (foldSum_add_ne hk _).symm

/-- A leading byte acts as the seed. -/
theorem checksum_cons_zero (b : Byte) (data : List Byte) : checksum (b :: data) 0 = checksum data b :=
  checksum_eq_iff.mpr (by simp)

/-- Settles O13: the closed form is the fold's invariant, and the extremes and the order follow from it. -/
theorem checksumClosedForm : Obligations.ChecksumClosedForm := by
  intro data seed
  have hle := foldSum_le (seed.toNat + byteSum data)
  refine ⟨checksum_toNat data seed, ?_, ?_, fun data' h => ?_⟩
  · rw [← foldSum_eq_zero, ← BitVec.toNat_inj, checksum_toNat, show (0xFF : Byte).toNat = 255 from rfl]; omega
  · rw [← foldSum_eq_max, ← BitVec.toNat_inj, checksum_toNat, show (0x00 : Byte).toNat = 0 from rfl]; omega
  · exact checksum_eq_iff.mpr (by rw [byteSum_perm h])

/-! ### The verdict -/

theorem RClass.matched_eq_decide (cls : RClass) : cls.matched = decide (cls ≠ .none) := by cases cls <;> rfl

theorem RClass.outcome_eq_ite (cls : RClass) : cls.outcome = if cls = .none then .checksum else .none := by
  cases cls <;> rfl

/-- Settles O19: `ok` is that a kind matched, and each verdict is a comparison with the two checksums. -/
theorem receivePolicyVerdicts : Obligations.ReceivePolicyVerdicts := by
  intro data cs pid
  refine ⟨fun policy => RClass.matched_eq_decide _, ?_⟩
  simp only [validate]
  generalize checksum data 0 = c
  generalize checksum data pid = e
  by_cases hc : cs = c
  · by_cases he : cs = e <;> simp [← hc, he]
  · by_cases he : cs = e
    · simp [← he, hc]
    · simp [hc, he]

/-- No protected identifier is a multiple of 255 (rule R101). -/
theorem computePid_mod (id : BitVec 6) : (computePid id).toNat % 255 ≠ 0 := by revert id; decide

/-- The two kinds of one frame never agree (rule R105). -/
theorem classic_ne_enhanced (id : BitVec 6) (data : List Byte) : checksum data 0 ≠ checksum data (computePid id) :=
  checksum_ne_of_sums (computePid_mod id) (by simp; omega)

/-- Settles O14: the sums of the two kinds differ by the PID, which is no multiple of 255. -/
theorem classicNeverEqualsEnhanced : Obligations.ClassicNeverEqualsEnhanced := by
  intro id data
  have hne := classic_ne_enhanced id data
  refine ⟨hne, fun cs => ?_⟩
  obtain ⟨-, -, -, -, -, hclassic, henhanced, -⟩ := receivePolicyVerdicts data cs (computePid id)
  exact ⟨hclassic, henhanced.trans (and_iff_right_of_imp fun h hc => hne (hc ▸ h))⟩

end Sys2Proof.Machine
end

section
/-! What each codec command does when `DBUF` holds its operands (rules R107 to R111 and R113). -/

namespace Sys2Proof.Machine

/-! ### Operands in `DBUF` -/

theorem withOperands_of_dbufHolds {s : State} {n : Nat} {bytes : List Byte} (hlen : bytes.length = n)
    (h : DbufHolds s bytes) (f : List Byte → State) : withOperands n s f = .next (f bytes) :=
  withOperands_of_some (operands_eq_some.mpr ⟨hlen, fun k hk => h k (hlen ▸ hk)⟩) f

theorem withOperands_of_dbufLacks {s : State} {n : Nat} (h : DbufLacks s n) (f : List Byte → State) :
    withOperands n s f = .fault .undefOperand :=
  withOperands_of_none (operands_eq_none.mpr h) f

/-! ### PID, CKSC and CKSE -/

/-- The fields of the protected identifier (rule R100). -/
theorem computePid_fields (id : BitVec 6) :
    (computePid id).extractLsb' 0 6 = id ∧
    (computePid id).getLsbD 6 = (id.getLsbD 0 ^^ id.getLsbD 1 ^^ id.getLsbD 2 ^^ id.getLsbD 4) ∧
    (computePid id).getLsbD 7 = !(id.getLsbD 1 ^^ id.getLsbD 3 ^^ id.getLsbD 4 ^^ id.getLsbD 5) := by
  revert id; decide

/-- Settles O12: the effect is PID's arm, and the bits are checked for each of the 64 identifiers. -/
theorem pidComputesTheProtectedIdentifier : Obligations.PidComputesTheProtectedIdentifier :=
  fun _ id => ⟨rfl, rfl, computePid_fields id⟩

/-- Settles O15: on defined operands the body runs, and its byte is the checksum in closed form. -/
theorem ckscWritesTheClassicChecksum : Obligations.CkscWritesTheClassicChecksum := by
  intro s len
  refine ⟨rfl, fun data hlen hdata => ⟨checksum data 0, withOperands_of_dbufHolds hlen hdata _, ?_⟩,
    fun hlacks => withOperands_of_dbufLacks hlacks _⟩
  simpa using checksum_toNat data 0

/-- Settles O16: on defined operands the body runs, and its byte is the PID-seeded checksum in closed form. -/
theorem ckseWritesTheEnhancedChecksum : Obligations.CkseWritesTheEnhancedChecksum := by
  intro s id len
  exact ⟨rfl, fun data hlen hdata => ⟨checksum data (computePid id), withOperands_of_dbufHolds hlen hdata _,
    checksum_toNat data (computePid id)⟩, fun hlacks => withOperands_of_dbufLacks hlacks _⟩

/-! ### FENC -/

/-- FENC of a kind. -/
def fencOf (k : Cksum) (id : BitVec 6) (len : BitVec 4) : Instr :=
  match k with
  | .classic => .fencC id len
  | .enhanced => .fencE id len

theorem exec_fencOf (k : Cksum) (id : BitVec 6) (len : BitVec 4) (s : State) :
    exec (fencOf k id len) s = withOperands len.toNat s fun data => encodeFrame id k data s := by cases k <;> rfl

/-- FENC writes the frame of its kind (rule R110). -/
theorem exec_fencOf_of_dbufHolds {s : State} {len : BitVec 4} {data : List Byte} (hlen : data.length = len.toNat)
    (hdata : DbufHolds s data) (k : Cksum) (id : BitVec 6) :
    exec (fencOf k id len) s = .next { s with
      rbuf := Memory.ofBytesAt 0 ([0x55, computePid id] ++ data ++ [frameChecksum k (computePid id) data])
      rlen := BitVec.ofNat 13 (len.toNat + 3), rbyte := frameChecksum k (computePid id) data, rpid := computePid id
      status := s.status.ended } := by
  have hframe : ([0x55, computePid id] ++ data ++ [frameChecksum k (computePid id) data]).length = len.toNat + 3 := by
    simp [hlen]
  rw [exec_fencOf, withOperands_of_dbufHolds hlen hdata, ← hframe]
  rfl

/-- Settles O17: each kind is FENC's effect, and `RBUF` reads as the bytes it was written with. -/
theorem fencWritesTheFrame : Obligations.FencWritesTheFrame := by
  intro s id len data hlen hdata
  exact ⟨rfl, rfl,
    ⟨_, exec_fencOf_of_dbufHolds hlen hdata .classic id, rfl, fun _ => Memory.read_ofBytesAt_zero _ _⟩,
    ⟨_, exec_fencOf_of_dbufHolds hlen hdata .enhanced id, rfl, fun _ => Memory.read_ofBytesAt_zero _ _⟩⟩

/-! ### FDEC -/

/-- The `KIND` field of a receive policy (rule R74). -/
def policyKind : Policy → BitVec 2
  | .classic => 0
  | .enhanced => 1
  | .classicThenEnhanced => 2

/-- A row of a receive command names its instruction and its `KIND` by the policy. -/
theorem row_of_policy {f : Policy → Instr} {i : Instr} {kind : BitVec 2} {p : Policy}
    (h : (i, kind, p) ∈ [(f .classic, (0 : BitVec 2), Policy.classic), (f .enhanced, 1, .enhanced),
      (f .classicThenEnhanced, 2, .classicThenEnhanced)]) : i = f p ∧ kind = policyKind p := by
  simp only [List.mem_cons, Prod.mk.injEq, List.not_mem_nil, or_false] at h
  rcases h with ⟨rfl, rfl, rfl⟩ | ⟨rfl, rfl, rfl⟩ | ⟨rfl, rfl, rfl⟩ <;> exact ⟨rfl, rfl⟩

/-- FDEC under a policy. -/
def fdecOf (p : Policy) (id : BitVec 6) (len : BitVec 4) : Instr :=
  match p with
  | .classic => .fdecC id len
  | .enhanced => .fdecE id len
  | .classicThenEnhanced => .fdecCE id len

theorem encode_fdecOf (p : Policy) (id : BitVec 6) (len : BitVec 4) :
    encode (fdecOf p id len) = .command (packWord 0x5 id (policyKind p) len) := by cases p <;> rfl

theorem exec_fdecOf (p : Policy) (id : BitVec 6) (len : BitVec 4) (s : State) :
    exec (fdecOf p id len) s = withOperands len.toNat s fun bytes => decodeFrame id p bytes s := by cases p <;> rfl

/-- The status a verdict leaves, field by field (rules R106, R111). -/
theorem judged_eq (cls : RClass) (st : Status) : st.judged cls = { st with
    busy := false, done := cls.matched, fail := !cls.matched, fkind := cls.outcome, ckok := cls.matched,
    rclass := cls } := by cases cls <;> rfl

/-- The body of FDEC on data and a checksum byte (rule R111). -/
theorem decodeFrame_concat (id : BitVec 6) (p : Policy) (data : List Byte) (cs : Byte) (s : State) :
    decodeFrame id p (data ++ [cs]) s = { s with
      rbuf := Memory.ofBytesAt 0 data, rlen := BitVec.ofNat 13 data.length, rpid := computePid id
      status := s.status.judged (validate data cs (computePid id) p) } := by
  simp only [decodeFrame, List.dropLast_concat, List.getLastD_concat]
  cases validate data cs (computePid id) p <;> rfl

theorem exec_fdecOf_of_dbufHolds {s : State} {len : BitVec 4} {data : List Byte} {cs : Byte}
    (hlen : data.length + 1 = len.toNat) (hdata : DbufHolds s (data ++ [cs])) (p : Policy) (id : BitVec 6) :
    exec (fdecOf p id len) s = .next { s with
      rbuf := Memory.ofBytesAt 0 data, rlen := BitVec.ofNat 13 data.length, rpid := computePid id
      status := s.status.judged (validate data cs (computePid id) p) } := by
  rw [exec_fdecOf, withOperands_of_dbufHolds (by simpa using hlen) hdata, decodeFrame_concat]

/-- Settles O18: each row is FDEC under its policy, whose effect keeps the data whatever the verdict. -/
theorem fdecValidatesTheChecksumByte : Obligations.FdecValidatesTheChecksumByte := by
  intro s id len data cs hlen hdata i kind policy hrow
  obtain ⟨rfl, rfl⟩ := row_of_policy (f := fun p => fdecOf p id len) hrow
  have hrlen : data.length = len.toNat - 1 := by omega
  refine ⟨encode_fdecOf policy id len, _, exec_fdecOf_of_dbufHolds hlen hdata policy id, ?_, fun _ => ?_⟩
  · rw [hrlen]
  · exact Memory.read_ofBytesAt_zero _ _

/-! ### SCAN -/

/-- SCAN under a policy. -/
def scanOf (p : Policy) (id : BitVec 6) (len : BitVec 4) : Instr :=
  match p with
  | .classic => .scanC id len
  | .enhanced => .scanE id len
  | .classicThenEnhanced => .scanCE id len

theorem encode_scanOf (p : Policy) (id : BitVec 6) (len : BitVec 4) :
    encode (scanOf p id len) = .command (packWord 0x6 id (policyKind p) len) := by cases p <;> rfl

theorem exec_scanOf (p : Policy) (id : BitVec 6) (len : BitVec 4) (s : State) :
    exec (scanOf p id len) s = withOperands len.toNat s fun bytes => scanCapture id p bytes s := by cases p <;> rfl

theorem finishWith_eq (k : FKind) (s : State) : finishWith k s = { s with
    status := { s.status with done := decide (k = .none), fail := decide (k ≠ .none), fkind := k, busy := false } } := by
  cases k <;> rfl

/-- The whole effect of a delivered parse (rules R113, R136). -/
theorem deliver_eq (r : Parsed) (s : State) : deliver r s = { s with
    rbuf := Memory.ofBytesAt 0 r.data, rlen := BitVec.ofNat 13 r.data.length
    status := { s.status with
      busy := false, done := decide (r.kind = .none), fail := decide (r.kind ≠ .none), fkind := r.kind
      ckok := decide (r.cls ≠ .none), rclass := r.cls } } := by
  rw [deliver, finishWith_eq, RClass.matched_eq_decide]; rfl

theorem exec_scanOf_of_dbufHolds {s : State} {len : BitVec 4} {bytes : List Byte} (hlen : bytes.length = len.toNat)
    (hbytes : DbufHolds s bytes) (p : Policy) (id : BitVec 6) :
    exec (scanOf p id len) s = .next { s with
      rbuf := Memory.ofBytesAt 0 (parse (computePid id) bytes p).data, rpid := computePid id
      rlen := BitVec.ofNat 13 (parse (computePid id) bytes p).data.length
      status := { s.status with
        busy := false
        done := decide ((parse (computePid id) bytes p).kind = .none)
        fail := decide ((parse (computePid id) bytes p).kind ≠ .none)
        fkind := (parse (computePid id) bytes p).kind
        ckok := decide ((parse (computePid id) bytes p).cls ≠ .none)
        rclass := (parse (computePid id) bytes p).cls } } := by
  rw [exec_scanOf, withOperands_of_dbufHolds hlen hbytes, scanCapture, deliver_eq]

/-- Settles O22: each row is SCAN under its policy, which delivers the parse of the operands. -/
theorem scanDeliversTheParse : Obligations.ScanDeliversTheParse := by
  intro s id len bytes hlen hbytes i kind policy hrow
  obtain ⟨rfl, rfl⟩ := row_of_policy (f := fun p => scanOf p id len) hrow
  exact ⟨encode_scanOf policy id len, _, exec_scanOf_of_dbufHolds hlen hbytes policy id, rfl,
    fun _ => Memory.read_ofBytesAt_zero _ _⟩

end Sys2Proof.Machine
end

section
/-! The capture parse (rules R112, R213), and the round trips of a frame (rules R114, R248). -/

namespace Sys2Proof.Machine

/-! ### The first cause in order -/

theorem parse_nil (pid : Byte) (p : Policy) : parse pid [] p = { kind := .timeout, data := [], cls := .none } := rfl

theorem parse_without_pid {pid : Byte} {s : List Byte} (hs : s ≠ []) (h : pid ∉ s) (p : Policy) :
    parse pid s p = { kind := .noPid, data := [], cls := .none } := by
  simp [parse, hs, afterFirst_eq_none.mpr h]

section
variable {pid : Byte} {pre : List Byte} (hpre : pid ∉ pre)
include hpre

theorem parse_short {rest : List Byte} (h : rest.length < 2) (p : Policy) :
    parse pid (pre ++ pid :: rest) p = { kind := .short, data := [], cls := .none } := by
  simp [parse, afterFirst_eq_some.mpr ⟨pre, rfl, hpre⟩, h]

theorem parse_overlong {data : List Byte} (h : 8 < data.length) (cs : Byte) (p : Policy) :
    parse pid (pre ++ pid :: (data ++ [cs])) p = { kind := .protocol, data := [], cls := .none } := by
  simp [parse, afterFirst_eq_some.mpr ⟨pre, rfl, hpre⟩, h, show ¬data.length + 1 < 2 by omega]

theorem parse_payload {data : List Byte} (h1 : 1 ≤ data.length) (h8 : data.length ≤ 8) (cs : Byte) (p : Policy) :
    parse pid (pre ++ pid :: (data ++ [cs])) p =
      { kind := (validate data cs pid p).outcome, data := data, cls := validate data cs pid p } := by
  simp [parse, afterFirst_eq_some.mpr ⟨pre, rfl, hpre⟩, show ¬data.length + 1 < 2 by omega,
    show ¬8 < data.length by omega]

end

/-- Settles O21: one lemma a cause, in the parse's order. -/
theorem captureParseOrder : Obligations.CaptureParseOrder := by
  intro pid policy
  refine ⟨parse_nil pid policy, fun s hs h => parse_without_pid hs h policy,
    fun pre rest hpre h => parse_short hpre h policy, fun pre data cs hpre h => parse_overlong hpre h cs policy,
    fun pre data cs hpre h1 h8 => ?_⟩
  rw [parse_payload hpre h1 h8, RClass.outcome_eq_ite]

/-! ### The verdicts on an encoded frame -/

/-- The single policy that checks for a kind. -/
def ownPolicy : Cksum → Policy
  | .classic => .classic
  | .enhanced => .enhanced

/-- The single policy that checks for the other kind. -/
def otherPolicy : Cksum → Policy
  | .classic => .enhanced
  | .enhanced => .classic

/-- The verdict that names a kind. -/
def ownClass : Cksum → RClass
  | .classic => .classic
  | .enhanced => .enhanced

theorem ownClass_ne_none (k : Cksum) : ownClass k ≠ .none := by cases k <;> simp [ownClass]

theorem validate_ownPolicy (k : Cksum) (pid : Byte) (data : List Byte) :
    validate data (frameChecksum k pid data) pid (ownPolicy k) = ownClass k := by
  cases k <;> simp [validate, frameChecksum, ownPolicy, ownClass]

theorem validate_otherPolicy (k : Cksum) (id : BitVec 6) (data : List Byte) :
    validate data (frameChecksum k (computePid id) data) (computePid id) (otherPolicy k) = .none := by
  have hne := classic_ne_enhanced id data
  obtain ⟨-, -, hclassic, -, henhanced, -⟩ :=
    receivePolicyVerdicts data (frameChecksum k (computePid id) data) (computePid id)
  cases k with
  | classic => exact henhanced.mpr hne
  | enhanced => exact hclassic.mpr hne.symm

theorem validate_classicThenEnhanced (k : Cksum) (id : BitVec 6) (data : List Byte) :
    validate data (frameChecksum k (computePid id) data) (computePid id) .classicThenEnhanced = ownClass k := by
  obtain ⟨hclassic, henhanced⟩ :=
    (classicNeverEqualsEnhanced id data).2 (frameChecksum k (computePid id) data)
  cases k with
  | classic => exact hclassic.mpr rfl
  | enhanced => exact henhanced.mpr rfl

/-! ### FENC, then FDEC -/

section
variable {u : State} {id : BitVec 6} {dlen : BitVec 4} {data : List Byte} {cs : Byte} {p : Policy}
  (hlen : data.length + 1 = dlen.toNat) (hdata : DbufHolds u (data ++ [cs]))
include hlen hdata

/-- FDEC of a frame whose checksum byte matches. -/
theorem exec_fdecOf_matched {cls : RClass} (hv : validate data cs (computePid id) p = cls) (hc : cls ≠ .none) :
    ∃ v, exec (fdecOf p id dlen) u = .next v ∧ v.status.done = true ∧ v.status.ckok = true ∧ v.status.rclass = cls ∧
      v.rlen.toNat = data.length ∧ ∀ a, v.rbuf.read a = data[a]? := by
  have hmatched : cls.matched = true := by rw [RClass.matched_eq_decide]; exact decide_eq_true hc
  have hrlen : (BitVec.ofNat 13 data.length).toNat = data.length := by
    have := dlen.isLt
    rw [BitVec.toNat_ofNat]; omega
  exact ⟨_, exec_fdecOf_of_dbufHolds hlen hdata p id, by simp [judged_eq, hv, hmatched],
    by simp [judged_eq, hv, hmatched], by simp [judged_eq, hv], hrlen, fun _ => Memory.read_ofBytesAt_zero _ _⟩

/-- FDEC of a frame whose checksum byte does not match. -/
theorem exec_fdecOf_unmatched (hv : validate data cs (computePid id) p = .none) :
    ∃ v, exec (fdecOf p id dlen) u = .next v ∧ v.status.fail = true ∧ v.status.fkind = .checksum ∧
      v.status.ckok = false :=
  ⟨_, exec_fdecOf_of_dbufHolds hlen hdata p id, by simp [judged_eq, hv], by simp [judged_eq, hv],
    by simp [judged_eq, hv]⟩

end

/-- The bytes FENC leaves from index 2 on are the payload and its checksum (rules R110, R114). -/
theorem dbufHolds_of_fencOf {s t u : State} {k : Cksum} {id : BitVec 6} {len : BitVec 4} {data : List Byte}
    (hlen : data.length = len.toNat) (hdata : DbufHolds s data) (hexec : exec (fencOf k id len) s = .next t)
    (hcopy : ∀ a, a < len.toNat + 1 → u.dbuf.read a = t.rbuf.read (a + 2)) :
    DbufHolds u (data ++ [frameChecksum k (computePid id) data]) := by
  rw [exec_fencOf_of_dbufHolds hlen hdata] at hexec
  cases hexec
  intro a ha
  rw [hcopy a (by simpa [hlen] using ha), Memory.read_ofBytesAt_zero]
  rfl

/-- Settles O20: the operands FDEC reads are the payload and its checksum, and the verdict is that of each policy. -/
theorem fencThenFdecGivesThePayload : Obligations.FencThenFdecGivesThePayload := by
  intro s t u id len dlen data k hlen _ hdlen hdata hexec hcopy
  have hdec : data.length + 1 = dlen.toNat := by omega
  have hexec : exec (fencOf k id len) s = .next t := by cases k <;> exact hexec
  have hframe := dbufHolds_of_fencOf hlen hdata hexec (u := u) (hdlen ▸ hcopy)
  have hown := exec_fdecOf_matched hdec hframe (validate_ownPolicy k (computePid id) data) (ownClass_ne_none k)
  have hboth := exec_fdecOf_matched hdec hframe (validate_classicThenEnhanced k id data) (ownClass_ne_none k)
  have hother := exec_fdecOf_unmatched hdec hframe (validate_otherPolicy k id data)
  obtain ⟨v, hv, hdone, hckok, -, hres⟩ := hown
  rw [hlen] at hboth hres
  cases k <;> exact ⟨⟨v, hv, hdone, hckok, hres⟩, hboth, hother⟩

/-! ### The header's echo -/

/-- Only identifier 0x15 has the sync byte as its PID (rule R101). -/
theorem computePid_eq_sync {id : BitVec 6} : computePid id = 0x55 ↔ id = 0x15 := by revert id; decide

theorem pid_notMem_sync {id : BitVec 6} (h : id ≠ 0x15) : computePid id ∉ [(0x55 : Byte)] := by
  simpa using mt computePid_eq_sync.mp h

/-- The checksum over the sync byte and the data, seeded with the PID 0x55, is neither kind's of the data. -/
theorem frameChecksum_ne_shifted (k : Cksum) (data : List Byte) :
    frameChecksum k 0x55 data ≠ checksum (0x55 :: data) 0x55 := by
  cases k with
  | classic => exact checksum_ne_of_sums (k := 170) (by decide) (by simp; omega)
  | enhanced => exact checksum_ne_of_sums (k := 85) (by decide) (by simp; omega)

/-- A misaligned Classic frame matches no kind (rule R248). -/
theorem validate_shifted_classic (data : List Byte) (p : Policy) :
    validate (0x55 :: data) (frameChecksum .classic 0x55 data) 0x55 p = .none := by
  have hc : frameChecksum .classic 0x55 data ≠ checksum (0x55 :: data) 0 := by
    rw [checksum_cons_zero]; exact classic_ne_enhanced 0x15 data
  have he := frameChecksum_ne_shifted .classic data
  obtain ⟨-, -, hclassic, -, henhanced, -, -, hboth⟩ :=
    receivePolicyVerdicts (0x55 :: data) (frameChecksum .classic 0x55 data) 0x55
  cases p with
  | classic => exact hclassic.mpr hc
  | enhanced => exact henhanced.mpr he
  | classicThenEnhanced => exact hboth.mpr ⟨hc, he⟩

/-- A misaligned Enhanced frame: the payload's leading sync byte stands for the seed (rule R248). -/
theorem frameChecksum_enhanced_shifted (data : List Byte) :
    frameChecksum .enhanced 0x55 data = checksum (0x55 :: data) 0 := (checksum_cons_zero 0x55 data).symm

/-- A capture of identifier 0x15 is read one byte early: the sync byte is taken for the PID (rule R248). -/
theorem parse_early {data : List Byte} (h : data.length < 8) (cs : Byte) (p : Policy) :
    parse 0x55 ([0x55, 0x55] ++ data ++ [cs]) p =
      { kind := (validate (0x55 :: data) cs 0x55 p).outcome, data := 0x55 :: data
        cls := validate (0x55 :: data) cs 0x55 p } :=
  parse_payload (pre := []) (data := 0x55 :: data) List.not_mem_nil (by simp) (by simpa using h) cs p

theorem parse_early_overlong {data : List Byte} (h : data.length = 8) (cs : Byte) (p : Policy) :
    parse 0x55 ([0x55, 0x55] ++ data ++ [cs]) p = { kind := .protocol, data := [], cls := .none } :=
  parse_overlong (pre := []) (data := 0x55 :: data) List.not_mem_nil (by simp [h]) cs p

/-- An Enhanced frame of identifier 0x15 fails under its own kind and passes as Classic (rules R114, R248). -/
theorem parse_early_enhanced {data : List Byte} (h : data.length < 8) :
    (parse 0x55 ([0x55, 0x55] ++ data ++ [frameChecksum .enhanced 0x55 data]) .enhanced).kind = .checksum ∧
    ∀ p, p = .classic ∨ p = .classicThenEnhanced →
      parse 0x55 ([0x55, 0x55] ++ data ++ [frameChecksum .enhanced 0x55 data]) p =
        { kind := .none, data := 0x55 :: data, cls := .classic } := by
  obtain ⟨-, hclassic, -, -, henhanced, hboth, -, -⟩ :=
    receivePolicyVerdicts (0x55 :: data) (frameChecksum .enhanced 0x55 data) 0x55
  simp only [parse_early h]
  refine ⟨by rw [henhanced.mpr (frameChecksum_ne_shifted .enhanced data)]; rfl, ?_⟩
  rintro p (rfl | rfl)
  · rw [hclassic.mpr (frameChecksum_enhanced_shifted data)]; rfl
  · rw [hboth.mpr (frameChecksum_enhanced_shifted data)]; rfl

/-- Settles O23: for other identifiers the echo's sync byte is skipped; for 0x15 it is taken for the PID, so the
payload begins with the PID. -/
theorem echoedCaptureRoundTripAndAlias : Obligations.EchoedCaptureRoundTripAndAlias := by
  intro id k data hlen pid capture
  have hskip : id ≠ 0x15 → pid ∉ [(0x55 : Byte)] := pid_notMem_sync
  refine ⟨?_, ?_, ?_, ?_, ?_⟩
  · rintro hid rfl policy
    exact congrArg Parsed.kind (parse_short (hskip hid) (rest := [frameChecksum k pid []]) (by simp) policy)
  · intro hid h1
    have hparse := parse_payload (hskip hid) h1 hlen (frameChecksum k pid data) (ownPolicy k)
    rw [validate_ownPolicy] at hparse
    cases k <;> exact hparse
  · rintro rfl h8 policy
    exact congrArg Parsed.kind (parse_early_overlong h8 (frameChecksum k 0x55 data) policy)
  · rintro rfl h8 rfl policy
    exact (congrArg Parsed.kind (parse_early h8 (frameChecksum .classic 0x55 data) policy)).trans
      (congrArg RClass.outcome (validate_shifted_classic data policy))
  · rintro rfl h8 rfl
    obtain ⟨hfails, hpasses⟩ := parse_early_enhanced h8
    exact ⟨hfails, hpasses .classic (.inl rfl), hpasses .classicThenEnhanced (.inr rfl)⟩

end Sys2Proof.Machine
end

section
/-! The bus commands: HDR, SEND and RECV (rules R130 to R136), and the listed transceiver answers (rule R133). -/

namespace Sys2Proof.Machine

/-! ### The bus procedures, whole effect -/

/-- The whole effect of a header (rule R130). -/
theorem header_eq (id : BitVec 6) (s : State) : header id s = { s with
    rpid := computePid id, xcvr := (header id s).xcvr, trace := s.trace ++ headerEvents id (bsiReturned s) } := by
  ext1 <;> simp [headerEvents]

/-- The whole effect of a send (rule R132). -/
theorem send_eq (id : BitVec 6) (data : List Byte) (k : Cksum) (s : State) : send id data k s = { s with
    rpid := computePid id, xcvr := (send id data k s).xcvr
    trace := s.trace ++
      sendEvents id (bsiReturned s) data (frameChecksum k (computePid id) data) s.csr.ifg } := by
  ext1 <;> simp [sendEvents, headerEvents]

/-- The whole effect of a poll's read (rule R135). -/
theorem recvState_eq (id : BitVec 6) (tmo : Word) (s : State) : recvState id tmo s = { s with
    rpid := computePid id, xcvr := (recvState id tmo s).xcvr
    trace := s.trace ++ pollEvents id (bsiReturned s) tmo (rxAnswer recvMax (header id s)) } := by
  ext1 <;> simp [pollEvents, headerEvents, recvMax]

/-! ### HDR -/

/-- Settles O24: HDR is a header, ended. -/
theorem hdrSendsTheHeader : Obligations.HdrSendsTheHeader :=
  fun s id => ⟨rfl, _, rfl, congrArg finishOk (header_eq id s)⟩

/-! ### SEND -/

/-- SEND of a kind. -/
def sendOf (k : Cksum) (id : BitVec 6) (len : BitVec 4) : Instr :=
  match k with
  | .classic => .sendC id len
  | .enhanced => .sendE id len

theorem exec_sendOf (k : Cksum) (id : BitVec 6) (len : BitVec 4) (s : State) :
    exec (sendOf k id len) s = withOperands len.toNat s fun data => finishOk (send id data k s) := by cases k <;> rfl

/-- SEND transmits the frame of its kind (rule R134). -/
theorem exec_sendOf_of_dbufHolds {s : State} {len : BitVec 4} {data : List Byte} (hlen : data.length = len.toNat)
    (hdata : DbufHolds s data) (k : Cksum) (id : BitVec 6) :
    exec (sendOf k id len) s = .next { s with
      rpid := computePid id, status := s.status.ended, xcvr := (send id data k s).xcvr
      trace := s.trace ++
        sendEvents id (bsiReturned s) data (frameChecksum k (computePid id) data) s.csr.ifg } := by
  rw [exec_sendOf, withOperands_of_dbufHolds hlen hdata]
  exact congrArg (fun t => Host.Outcome.next (finishOk t)) (send_eq id data k s)

/-- Settles O25: each kind is SEND's effect with its checksum. -/
theorem sendTransmitsTheFrame : Obligations.SendTransmitsTheFrame := by
  intro s id len data hlen hdata
  exact ⟨rfl, rfl, ⟨_, exec_sendOf_of_dbufHolds hlen hdata .classic id, rfl⟩,
    ⟨_, exec_sendOf_of_dbufHolds hlen hdata .enhanced id, rfl⟩⟩

/-! ### RECV -/

/-- RECV under a policy. -/
def recvOf (p : Policy) (id : BitVec 6) : Instr :=
  match p with
  | .classic => .recvC id
  | .enhanced => .recvE id
  | .classicThenEnhanced => .recvCE id

theorem encode_recvOf (p : Policy) (id : BitVec 6) :
    encode (recvOf p id) = .command (packWord 0x9 id (policyKind p) 0) := by cases p <;> rfl

theorem exec_recvOf (p : Policy) (id : BitVec 6) (s : State) : exec (recvOf p id) s = .next (pollSlave id p s) := by
  cases p <;> rfl

/-- The whole effect of RECV's body: a poll, and its parse delivered (rule R136). -/
theorem pollSlave_eq (id : BitVec 6) (p : Policy) (s : State) : pollSlave id p s = { s with
    rbuf := Memory.ofBytesAt 0 (recvParsed id p s).data, rpid := computePid id
    xcvr := (recvState id s.csr.appTmo s).xcvr, rlen := BitVec.ofNat 13 (recvParsed id p s).data.length
    trace := s.trace ++ pollEvents id (bsiReturned s) s.csr.appTmo (rxAnswer recvMax (header id s))
    status := { s.status with
      busy := false
      done := decide ((recvParsed id p s).kind = .none)
      fail := decide ((recvParsed id p s).kind ≠ .none)
      fkind := (recvParsed id p s).kind
      ckok := decide ((recvParsed id p s).cls ≠ .none)
      rclass := (recvParsed id p s).cls } } :=
  (congrArg (deliver (recvParsed id p s)) (recvState_eq id s.csr.appTmo s)).trans (deliver_eq _ _)

/-- Settles O26: each row is RECV under its policy; the answer is the one its read recorded. -/
theorem recvDeliversOnePoll : Obligations.RecvDeliversOnePoll := by
  intro s id i kind policy hrow
  obtain ⟨rfl, rfl⟩ := row_of_policy (f := fun p => recvOf p id) hrow
  have hexec := (exec_recvOf policy id s).trans (congrArg Host.Outcome.next (pollSlave_eq id policy s))
  exact ⟨encode_recvOf policy id, _, rxAnswer recvMax (header id s), hexec, rxAnswer_length recvMax _, rfl,
    fun _ => Memory.read_ofBytesAt_zero _ _⟩

/-! ### What follows a poll's read leaves the listed answers -/

/-- The completion test touches neither the transceiver nor the trace (rule R163). -/
theorem completionTest_port (s : State) :
    (completionTest s).xcvr = s.xcvr ∧ (completionTest s).trace = s.trace := by
  rcases completionTest_cases s with ⟨-, e⟩ | ⟨-, e⟩ <;> rw [e] <;> exact ⟨rfl, rfl⟩

/-- An unusable poll's outcome touches neither the transceiver nor the trace (rules R167, R168). -/
theorem unusablePoll_port (s : State) : (unusablePoll s).xcvr = s.xcvr ∧ (unusablePoll s).trace = s.trace := by
  rcases unusablePoll_cases s with ⟨-, e⟩ | ⟨-, e⟩ <;> rw [e] <;> exact ⟨rfl, rfl⟩

/-- Flow Control sends and reads nothing (rules R161, R162). -/
theorem flowControl_rx (s : State) : (flowControl s).xcvr.rx = s.xcvr.rx := by
  rcases flowControl_cases s with ⟨-, e⟩ | ⟨-, e⟩ <;> rw [e]
  exact send_rx _ _ _ s

/-- A first response takes no further answer. -/
theorem exec_frame_first_rx {ty v : BitVec 4} {data : List Byte} {s t : State}
    (hs : s.status.tstate = .awaitingResponse) (h : exec (frameOfType ty v data) s = .next t) :
    t.xcvr.rx = s.xcvr.rx := by
  rcases exec_frame_first ty v data hs with e | ⟨-, e⟩ | ⟨lo, seed, -, e⟩ <;> cases e.symm.trans h
  · exact congrArg Xcvr.rx (failExchange_xcvr .protocol s)
  · rfl
  · rw [(completionTest_port _).1, flowControl_rx]; rfl

/-- A frame during reassembly uses no port. -/
theorem exec_frame_reassembling_port {ty v : BitVec 4} {data : List Byte} {s t : State}
    (hs : s.status.tstate = .reassembling) (h : exec (frameOfType ty v data) s = .next t) :
    t.xcvr = s.xcvr ∧ t.trace = s.trace := by
  rcases exec_frame_reassembling ty v data hs with e | ⟨-, -, e⟩ <;> cases e.symm.trans h
  · exact unusablePoll_port s
  · exact completionTest_port _

/-- After its read an initial-response poll takes no answer and erases no event. -/
theorem pollResponse_port {s t : State} (hs : s.status.tstate = .awaitingResponse)
    (h : runFetched (pollResponse s) = .next t) :
    t.xcvr.rx = (afterResponsePoll s).xcvr.rx ∧ ∃ es, t.trace = (afterResponsePoll s).trace ++ es := by
  have fails (k : FKind) : (failExchange k (afterResponsePoll s)).xcvr.rx = (afterResponsePoll s).xcvr.rx ∧
      ∃ es, (failExchange k (afterResponsePoll s)).trace = (afterResponsePoll s).trace ++ es :=
    ⟨rfl, [], (List.append_nil _).symm⟩
  rcases pollResponse_cases s with ⟨-, hp⟩ | ⟨-, -, hp⟩ | ⟨ty, v, data, -, -, -, hp⟩ <;> rw [hp] at h
  · cases h
    split
    · exact ⟨rfl, [], (List.append_nil _).symm⟩
    · exact fails _
  · cases h; exact fails _
  · exact ⟨exec_frame_first_rx (by simpa using hs) h, (exec_frame_kept ty v data h).trace⟩

/-- After its read a Consecutive-Frame poll uses no port. -/
theorem pollConsecutive_port {s t : State} (hs : s.status.tstate = .reassembling)
    (h : runFetched (pollConsecutive s) = .next t) :
    t.xcvr = (afterCfPoll s).xcvr ∧ t.trace = (afterCfPoll s).trace := by
  rcases pollConsecutive_cases s with ⟨-, hp⟩ | ⟨ty, v, data, -, -, -, hp⟩ <;> rw [hp] at h
  · cases h; exact unusablePoll_port _
  · exact exec_frame_reassembling_port (by simpa using hs) h

/-! ### A listed answer -/

/-- A poll's read takes the listed answer, and its last event records the first 11 bytes of it (rule R133). -/
theorem recvState_of_listed {id : BitVec 6} {tmo : Word} {s : State} {a : List Byte} {more : List (List Byte)}
    (h : s.xcvr.rx = a :: more) :
    (recvState id tmo s).xcvr.rx = more ∧ (recvState id tmo s).trace.getLast? = some (.rx 11 tmo (a.take 11)) :=
  ⟨recvState_rx_of_listed h, by simp [rxAnswer_header_of_listed h, recvMax]⟩

/-- Settles O27: the read takes the answer, and what follows it in the step takes no other. -/
theorem listedAnswerIsReadNext : Obligations.ListedAnswerIsReadNext := by
  intro s t a more hlisted
  refine ⟨?_, fun rest hex hstep => ?_, fun rest hex hstep => ?_⟩
  · rintro ⟨id, h⟩
    obtain ⟨p, hp⟩ : ∃ p, exec (recvOf p id) s = .next t := by
      rcases h with h | h | h
      · exact ⟨.classic, h⟩
      · exact ⟨.enhanced, h⟩
      · exact ⟨.classicThenEnhanced, h⟩
    cases (exec_recvOf p id s).symm.trans hp
    rw [pollSlave, deliver_xcvr, deliver_trace]
    exact recvState_of_listed hlisted
  · rw [step_of_awaiting hex] at hstep
    obtain ⟨-, -, hts, -⟩ := hex
    obtain ⟨hrx, es, htrace⟩ := pollResponse_port (s := { s with host := rest }) hts hstep
    obtain ⟨hmore, hlast⟩ :=
      recvState_of_listed (id := diagRespId) (tmo := s.csr.respTmo) (s := { s with host := rest }) hlisted
    refine ⟨hrx.trans hmore, ?_⟩
    rw [htrace]
    exact List.mem_append_left es (List.mem_of_getLast? hlast)
  · rw [step_of_reassembling hex] at hstep
    obtain ⟨-, -, hts, -⟩ := hex
    obtain ⟨hxcvr, htrace⟩ := pollConsecutive_port (s := { s with host := rest }) hts hstep
    rw [hxcvr, htrace]
    exact recvState_of_listed (s := { s with host := rest }) hlisted

end Sys2Proof.Machine
end

section
/-! DREQ's request step, and what each received frame does as the first response and during reassembly (rules R151,
R154 and R158 to R169). -/

namespace Sys2Proof.Machine

/-! ### The transport operations, whole effect -/

/-- The whole effect of a failed exchange (rule R170). -/
theorem failExchange_eq (k : FKind) (s : State) : failExchange k s = { s with
    rbuf := [], rlen := 0, status := { s.status.failed k with tstate := .failed } } := rfl

/-- With `TLEN` bytes collected the exchange completes with them (rules R163, R169). -/
theorem completionTest_of_enough {s : State} (h : s.tlen.toNat ≤ s.coll.length) : completionTest s = { s with
    rbuf := Memory.ofBytesAt 0 (s.coll.take s.tlen.toNat), rlen := BitVec.ofNat 13 s.tlen.toNat
    status := { s.status.ended with tstate := .done } } := by
  have hlen : (s.coll.take s.tlen.toNat).length = s.tlen.toNat := List.length_take_of_le h
  rw [completionTest, if_pos h]
  simp only [completeExchange, setResult, hlen]
  rfl

/-- While bytes are missing the reassembly goes on (rule R163). -/
theorem completionTest_of_missing {s : State} (h : s.coll.length < s.tlen.toNat) : completionTest s = s :=
  if_neg (Nat.not_le.mpr h)

/-- The completion test writes none of the transport registers, `RPID` and the port (rule R163). -/
theorem completionTest_keeps (s : State) : (completionTest s).tlen = s.tlen ∧ (completionTest s).coll = s.coll ∧
    (completionTest s).retry = s.retry ∧ (completionTest s).rpid = s.rpid ∧ (completionTest s).trace = s.trace ∧
    (completionTest s).xcvr = s.xcvr := by
  rcases completionTest_cases s with ⟨-, e⟩ | ⟨-, e⟩ <;> rw [e] <;> exact ⟨rfl, rfl, rfl, rfl, rfl, rfl⟩

/-- With retries left an unusable poll only counts one (rule R167). -/
theorem unusablePoll_of_left {s : State} (h : s.retry.toNat + 1 ≤ s.csr.maxRetries.toNat) :
    unusablePoll s = { s with retry := BitVec.ofNat 5 (s.retry.toNat + 1) } := by
  rcases unusablePoll_cases s with ⟨-, e⟩ | ⟨hx, -⟩
  · exact e
  · omega

/-- With no retry left an unusable poll ends the exchange with the partial response (rule R168). -/
theorem unusablePoll_of_exhausted {s : State} (h : s.csr.maxRetries.toNat < s.retry.toNat + 1) :
    unusablePoll s = { s with
      retry := BitVec.ofNat 5 (s.retry.toNat + 1)
      rbuf := Memory.ofBytesAt 0 (s.coll.take s.tlen.toNat)
      rlen := BitVec.ofNat 13 (min s.coll.length s.tlen.toNat)
      status := { s.status.failed .retryExhausted with tstate := .failed } } := by
  rcases unusablePoll_cases s with ⟨hl, -⟩ | ⟨-, e⟩
  · omega
  · rw [e, List.length_take, Nat.min_comm]; rfl

/-- What Flow Control leaves in `RPID` and the port, by the profile (rules R152, R161, R162). -/
structure AfterFlowControl (s : State) (rpid : Byte) (trace : List Event) (xcvr : Xcvr) : Prop where
  answers : xcvr.rx = s.xcvr.rx
  sent : s.csr.profile = 0 → rpid = 0x3C ∧ trace =
    s.trace ++ sendEvents 0x3C (bsiReturned s) (buildFC s.csr) (checksum (buildFC s.csr) 0) s.csr.ifg
  silent : s.csr.profile = 1 → rpid = s.rpid ∧ trace = s.trace ∧ xcvr = s.xcvr

theorem flowControl_effect (s : State) : ∃ rpid trace xcvr,
    flowControl s = { s with rpid := rpid, trace := trace, xcvr := xcvr } ∧ AfterFlowControl s rpid trace xcvr := by
  rcases flowControl_cases s with ⟨flow, e⟩ | ⟨auto, e⟩
  · exact ⟨_, _, _, e.trans (send_eq diagReqId (buildFC s.csr) .classic s), send_rx _ _ _ s,
      fun _ => ⟨computePid_diagReqId, rfl⟩, fun auto => by simp [flow] at auto⟩
  · exact ⟨_, _, _, e, rfl, fun flow => by simp [auto] at flow, fun _ => ⟨rfl, rfl, rfl⟩⟩

/-! ### DREQ's request -/

/-- The request frame with the SID apart from the data bytes (rule R151). -/
theorem buildReq_cons (nad sid : Byte) (data : List Byte) : buildReq nad (sid :: data) =
    [nad, BitVec.ofNat 8 (1 + data.length), sid] ++ data ++ List.replicate (5 - data.length) 0xFF := by
  simp [buildReq, Nat.add_comm 1 data.length]

/-- The whole effect of the request step (rules R151, R154). -/
theorem sendRequest_eq (body : List Byte) (s : State) : sendRequest body s = { s with
    rlen := 0, rbuf := [], att := 0, rpid := 0x3C, xcvr := (sendRequest body s).xcvr
    status := { s.status with tstate := .awaitingResponse }
    trace := s.trace ++ sendEvents 0x3C (bsiReturned s) (buildReq s.csr.nad body)
      (checksum (buildReq s.csr.nad body) 0) s.csr.ifg } := by
  rw [sendRequest, send_eq, computePid_diagReqId]; rfl

/-- Settles O28: the operands are the SID and the data, and the frame built from them is the stated one. -/
theorem dreqSendsItsRequest : Obligations.DreqSendsItsRequest := by
  intro s len sid data hlen hmax hdata frame
  have hexec : exec (.dreq len) s = .next (sendRequest (sid :: data) s) :=
    withOperands_of_dbufHolds (by simp [hlen, Nat.add_comm]) hdata _
  have heq := sendRequest_eq (sid :: data) s
  rw [buildReq_cons] at heq
  refine ⟨by simp [frame]; omega, _, hexec.trans (congrArg _ heq), rfl, fun _ => rfl⟩

/-! ### First responses -/

section
variable {s : State} (h : s.status.tstate = .awaitingResponse)
include h

theorem inReassembly_of_awaiting : inReassembly s = false := by simp [inReassembly, h]

theorem exec_sf_first (n : BitVec 4) (data : List Byte) :
    exec (.sf n data) s = .next (acceptSingle n data s) := by
  simp [exec, execSf, inReassembly_of_awaiting h]

theorem exec_ff_first (hi : BitVec 4) (data : List Byte) :
    exec (.ff hi data) s = .next (acceptFirst hi data s) := by
  simp [exec, execFf, inReassembly_of_awaiting h]

theorem exec_cf_first (seq : BitVec 4) (data : List Byte) :
    exec (.cf seq data) s = .next (failExchange .protocol s) := by
  simp [exec, execCf, inReassembly_of_awaiting h]

end

/-- FC and the reserved types have one meaning (rules R159, R167). -/
theorem exec_neverAccepted {i : Instr} (h : neverAccepted i = true) (s : State) :
    exec i s = .next (rejectFrame s) := by
  cases i with
  | fc | pciRsv4 | pciRsv5 | pciRsv6 | pciRsv7 | pciRsv8 | pciRsv9 | pciRsvA | pciRsvB | pciRsvC | pciRsvD | pciRsvE
  | pciRsvF => rfl
  | _ => cases h

/-- A Single Frame that holds its bytes completes the exchange with them (rule R158). -/
theorem acceptSingle_of_enough {n : BitVec 4} {data : List Byte} (h : n.toNat ≤ data.length) (s : State) :
    acceptSingle n data s = { s with
      rbuf := Memory.ofBytesAt 0 (data.take n.toNat), rlen := BitVec.ofNat 13 n.toNat
      status := { s.status.ended with tstate := .done } } := by
  have hlen : (data.take n.toNat).length = n.toNat := List.length_take_of_le h
  rw [acceptSingle, if_neg (Nat.not_lt.mpr h)]
  simp only [setResult, hlen]
  rfl

/-- Settles O29: the Single Frame is checked for its length. -/
theorem singleFrameAsFirstResponse : Obligations.SingleFrameAsFirstResponse := by
  intro s n data hs
  rw [exec_sf_first hs]
  refine ⟨fun enough => ?_, fun short => ?_⟩
  · rw [acceptSingle_of_enough enough]
    exact ⟨_, rfl, rfl, fun _ => Memory.read_ofBytesAt_zero _ _⟩
  · rw [acceptSingle, if_pos short]
    exact ⟨_, rfl, failExchange_eq .protocol s, fun _ => rfl⟩

/-- The 12-bit length of a First Frame (rule R160). -/
theorem firstFrameLength_toNat (hi : BitVec 4) (lo : Byte) : (hi ++ lo).toNat = hi.toNat * 256 + lo.toNat := by
  rw [BitVec.toNat_append, ← Nat.shiftLeft_add_eq_or_of_lt lo.isLt, Nat.shiftLeft_eq]

/-- The state a First Frame with its length byte leaves to the completion test (rules R160 to R162). -/
theorem acceptFirst_cons (hi : BitVec 4) (lo : Byte) (seed : List Byte) (s : State) : ∃ rpid trace xcvr,
    acceptFirst hi (lo :: seed) s = completionTest { s with
      tlen := hi ++ lo, coll := seed.take 5, retry := 0, rpid := rpid, trace := trace, xcvr := xcvr
      status := { s.status with tstate := .reassembling } } ∧ AfterFlowControl s rpid trace xcvr := by
  obtain ⟨rpid, trace, xcvr, heq, ⟨answers, sent, silent⟩⟩ :=
    flowControl_effect (setTState .reassembling { s with tlen := hi ++ lo, coll := seed.take 5, retry := 0 })
  exact ⟨rpid, trace, xcvr, congrArg completionTest heq, answers, sent, silent⟩

/-- Settles O30: the Flow Control step writes `RPID` and the port by the profile, the completion test the rest. -/
theorem firstFrameAsFirstResponse : Obligations.FirstFrameAsFirstResponse := by
  intro s hi data hs
  rw [exec_ff_first hs]
  refine ⟨?_, ?_⟩
  · rintro rfl
    exact ⟨_, rfl, failExchange_eq .protocol s, fun _ => rfl⟩
  · rintro lo seed rfl
    obtain ⟨rpid, trace, xcvr, heq, port⟩ := acceptFirst_cons hi lo seed s
    rw [heq]
    obtain ⟨ktlen, kcoll, kretry, krpid, ktrace, kxcvr⟩ := completionTest_keeps { s with
      tlen := hi ++ lo, coll := seed.take 5, retry := 0, rpid := rpid, trace := trace, xcvr := xcvr
      status := { s.status with tstate := .reassembling } }
    refine ⟨_, rfl, ?_, kcoll, kretry, fun flow => ?_, fun auto => ?_, fun enough => ?_, fun missing => ?_⟩
    · rw [ktlen, firstFrameLength_toNat]
    · rw [krpid, ktrace]; exact port.sent flow
    · rw [krpid, ktrace, kxcvr]; exact port.silent auto
    · rw [ktlen] at enough
      rw [completionTest_of_enough enough]
      refine ⟨rfl, fun k => ?_⟩
      have h5 : (hi ++ lo).toNat ≤ 5 := enough.trans (List.length_take_le 5 seed)
      rw [Memory.read_ofBytesAt_zero, List.take_take, Nat.min_eq_left h5]
    · rw [ktlen] at missing
      rw [completionTest_of_missing missing]

/-- Settles O33: none of these types is a first response. -/
theorem wrongTypeAsFirstResponseFails : Obligations.WrongTypeAsFirstResponseFails := by
  intro s i hs hi
  have hexec : exec i s = .next (failExchange .protocol s) := by
    rcases hi with hi | ⟨seq, data, rfl⟩
    · rw [exec_neverAccepted hi, rejectFrame, inReassembly_of_awaiting hs]; rfl
    · exact exec_cf_first hs seq data
  exact ⟨_, hexec, failExchange_eq .protocol s, fun _ => rfl⟩

/-! ### Frames during reassembly -/

/-- A Consecutive Frame with data is appended and tested for completion (rules R165, R166). -/
theorem exec_cf_reassembling {s : State} (h : s.status.tstate = .reassembling) (seq : BitVec 4) {data : List Byte}
    (hd : data ≠ []) :
    exec (.cf seq data) s = .next (completionTest { s with coll := s.coll ++ data.take 6, retry := 0 }) := by
  cases data with
  | nil => exact absurd rfl hd
  | cons b rest => simp [exec, execCf, (inReassembly_iff s).mpr h, acceptConsecutive]

/-- Settles O31: the frame is appended and the completion test decides. -/
theorem consecutiveFrameIsAppended : Obligations.ConsecutiveFrameIsAppended := by
  intro s seq data hs hd coll
  rw [exec_cf_reassembling hs seq hd]
  refine ⟨fun missing => ?_, fun enough => ?_⟩
  · rw [completionTest_of_missing (by exact missing)]
  · rw [completionTest_of_enough (by exact enough)]
    exact ⟨_, rfl, rfl, fun _ => Memory.read_ofBytesAt_zero _ _⟩

theorem unusableFrame_cases {i : Instr} (h : unusableFrame i = true) : (∃ n data, i = .sf n data) ∨
    (∃ hi data, i = .ff hi data) ∨ (∃ seq, i = .cf seq []) ∨ neverAccepted i = true := by
  cases i with
  | sf n data => exact .inl ⟨n, data, rfl⟩
  | ff hi data => exact .inr (.inl ⟨hi, data, rfl⟩)
  | cf seq data =>
    cases data with
    | nil => exact .inr (.inr (.inl ⟨seq, rfl⟩))
    | cons => cases h
  | _ => exact .inr (.inr (.inr h))

/-- Every frame that is no usable Consecutive Frame is an unusable poll (rule R167). -/
theorem exec_unusableFrame {s : State} (h : s.status.tstate = .reassembling) {i : Instr} (hi : unusableFrame i = true) :
    exec i s = .next (unusablePoll s) := by
  have hr := (inReassembly_iff s).mpr h
  rcases unusableFrame_cases hi with ⟨n, data, rfl⟩ | ⟨v, data, rfl⟩ | ⟨seq, rfl⟩ | hi
  · rw [exec, execSf, if_pos hr]
  · rw [exec, execFf, if_pos hr]
  · rw [exec, execCf, if_pos hr, acceptConsecutive]
  · rw [exec_neverAccepted hi, rejectFrame, if_pos hr]

/-- Settles O32: the unusable poll of rule R167 counts a retry or ends the exchange. -/
theorem unusableFrameCountsARetry : Obligations.UnusableFrameCountsARetry := by
  intro s i hs hi _ _
  rw [exec_unusableFrame hs hi]
  refine ⟨fun left => ?_, fun exhausted => ?_⟩
  · rw [unusablePoll_of_left left]
  · rw [unusablePoll_of_exhausted exhausted]
    exact ⟨_, rfl, rfl, fun _ => Memory.read_ofBytesAt_zero _ _⟩

end Sys2Proof.Machine
end

section
/-! DREQ's polls: the frame a poll captures, the polls that are unusable or not addressed (rules R155 to R157, R164 to
R168). -/

namespace Sys2Proof.Machine

/-! ### The read of a poll -/

theorem Exchanging.tstate {ts : TState} {pending : List HostAction} {s : State} (h : Exchanging ts pending s) :
    s.status.tstate = ts := by
  obtain ⟨-, -, hts, -⟩ := h
  exact hts

/-- What a diagnostic poll returns is the Classic capture parse of its answer (rules R135, R155, R164), whatever the
host has pending. -/
theorem recvParsed_diag (s : State) (hs : List HostAction) : recvParsed diagRespId .classic { s with host := hs } =
    parse 0x7D (rxAnswer 11 (header 0x3D s)) .classic := by
  rw [recvParsed_withHost, recvParsed, computePid_diagRespId]; rfl

/-- A poll is usable exactly when the Classic kind matched (rule R106). -/
theorem recvParsed_cls (s : State) : (recvParsed diagRespId .classic s).cls =
    if (recvParsed diagRespId .classic s).kind = .none then .classic else .none := by
  split
  · exact (parse_classic_cls _ _).resolve_left (parse_kind_none.mp ‹_›)
  · by_contra hc; exact absurd (parse_kind_none.mpr hc) ‹_›

/-- The whole effect of an initial poll's read (rule R155). -/
theorem afterResponsePoll_eq (s : State) : afterResponsePoll s = { s with
    att := BitVec.ofNat 8 (s.att.toNat + 1), rpid := 0x7D, xcvr := (afterResponsePoll s).xcvr
    status := { s.status with
      ckok := (recvParsed diagRespId .classic s).cls.matched, rclass := (recvParsed diagRespId .classic s).cls }
    trace := s.trace ++ pollEvents 0x3D (bsiReturned s) s.csr.respTmo (rxAnswer 11 (header 0x3D s)) } := by
  rw [afterResponsePoll, recvState_eq, computePid_diagRespId]; rfl

/-- The whole effect of a Consecutive-Frame poll's read (rule R164). -/
theorem afterCfPoll_eq (s : State) : afterCfPoll s = { s with
    rpid := 0x7D, xcvr := (afterCfPoll s).xcvr
    status := { s.status with
      ckok := (recvParsed diagRespId .classic s).cls.matched, rclass := (recvParsed diagRespId .classic s).cls }
    trace := s.trace ++ pollEvents 0x3D (bsiReturned s) s.csr.cfTmo (rxAnswer 11 (header 0x3D s)) } := by
  rw [afterCfPoll, recvState_eq, computePid_diagRespId]; rfl

/-! ### The captured frame -/

/-- An initial poll that captures an addressed frame fetches what it decodes to (rule R157). -/
theorem pollResponse_of_frame {s : State} {j : Instr} {bytes : List Byte} {cls : RClass}
    (hp : recvParsed diagRespId .classic s = { kind := .none, data := s.csr.nad :: bytes, cls := cls })
    (hd : decodeResponse bytes = .ok j) : pollResponse s = .run j (afterResponsePoll s) := by
  obtain ⟨t, v, data, rfl, -, -⟩ := decodeResponse_eq_ok hd
  simp [pollResponse, hp, hd, addressed]

/-- A Consecutive-Frame poll that captures an addressed frame fetches what it decodes to (rule R165). -/
theorem pollConsecutive_of_frame {s : State} {j : Instr} {bytes : List Byte} {cls : RClass}
    (hp : recvParsed diagRespId .classic s = { kind := .none, data := s.csr.nad :: bytes, cls := cls })
    (hd : decodeResponse bytes = .ok j) : pollConsecutive s = .run j (afterCfPoll s) := by
  obtain ⟨t, v, data, rfl, -, -⟩ := decodeResponse_eq_ok hd
  simp [pollConsecutive, hp, hd, addressed]

/-- Settles O9: the poll fetches the frame in the state its read leaves. -/
theorem stepRunsThePolledFrame : Obligations.StepRunsThePolledFrame := by
  intro s ts rest j bytes cls hex hparse hd
  have hp := (recvParsed_diag s rest).trans hparse
  have hcls : (recvParsed diagRespId .classic { s with host := rest }).cls = .classic := by
    rw [recvParsed_cls, if_pos (by rw [hp])]
  refine ⟨?_, ?_⟩
  · rintro rfl
    rw [step_of_awaiting hex, pollResponse_of_frame hp hd, runFetched, afterResponsePoll_eq, hcls,
      rxAnswer_header_withHost]
    exact ⟨_, rfl⟩
  · rintro rfl
    rw [step_of_reassembling hex, pollConsecutive_of_frame hp hd, runFetched, afterCfPoll_eq, hcls,
      rxAnswer_header_withHost]
    exact ⟨_, rfl⟩

/-! ### The first response -/

/-- A failed exchange after an initial poll (rules R156, R157). -/
theorem failExchange_afterResponsePoll (k : FKind) (s : State) : failExchange k (afterResponsePoll s) = { s with
    att := BitVec.ofNat 8 (s.att.toNat + 1), rpid := 0x7D, xcvr := (afterResponsePoll s).xcvr, rbuf := [], rlen := 0
    status := { s.status.failed k with
      tstate := .failed, ckok := (recvParsed diagRespId .classic s).cls.matched
      rclass := (recvParsed diagRespId .classic s).cls }
    trace := s.trace ++ pollEvents 0x3D (bsiReturned s) s.csr.respTmo (rxAnswer 11 (header 0x3D s)) } := by
  rw [afterResponsePoll_eq]; rfl

/-- Settles O34: the failed parse matched no kind, and `ATT`, below `RESP_POLLS`, does not wrap. -/
theorem unusableInitialPoll : Obligations.UnusableInitialPoll := by
  intro s rest hex hatt r hr
  have hk : (recvParsed diagRespId .classic { s with host := rest }).kind = r.kind := by rw [recvParsed_diag]
  have hcls : (recvParsed diagRespId .classic { s with host := rest }).cls = .none := by
    rw [recvParsed_cls, if_neg (by rwa [hk])]
  have hcount : (BitVec.ofNat 8 (s.att.toNat + 1)).toNat = s.att.toNat + 1 := by
    rw [BitVec.toNat_ofNat]; omega
  have hstep : step s = .next (if s.att.toNat + 1 < s.csr.respPolls.toNat then afterResponsePoll { s with host := rest }
      else failExchange r.kind (afterResponsePoll { s with host := rest })) := by
    rw [step_of_awaiting hex]
    rcases pollResponse_cases { s with host := rest } with ⟨-, e⟩ | ⟨hn, -⟩ | ⟨_, _, _, hn, -⟩
    · rw [e, hk]; rfl
    · exact absurd (hk.symm.trans hn) hr
    · exact absurd (hk.symm.trans hn) hr
  rw [hstep]
  split
  · rename_i left
    refine ⟨_, rfl, hcount, fun _ => ?_, fun exhausted => ?_⟩
    · rw [afterResponsePoll_eq, hcls, rxAnswer_header_withHost]; rfl
    · rw [afterResponsePoll_att, hcount] at exhausted; omega
  · rename_i exhausted
    refine ⟨_, rfl, hcount, fun left => ?_, fun _ => ⟨?_, fun _ => rfl⟩⟩
    · rw [failExchange_att, afterResponsePoll_att, hcount] at left; omega
    · rw [failExchange_afterResponsePoll, hcls, rxAnswer_header_withHost]; rfl

/-- Settles O35: a payload that is too short or of another NAD is not addressed. -/
theorem unaddressedFirstResponseFails : Obligations.UnaddressedFirstResponseFails := by
  intro s rest p cls hex hparse hbad
  have hp := (recvParsed_diag s rest).trans hparse
  have hcls : (recvParsed diagRespId .classic { s with host := rest }).cls = .classic := by
    rw [recvParsed_cls, if_pos (by rw [hp])]
  have hstep : step s = .next (failExchange .protocol (afterResponsePoll { s with host := rest })) := by
    rw [step_of_awaiting hex]
    rcases pollResponse_cases { s with host := rest } with ⟨hk, -⟩ | ⟨-, -, e⟩ | ⟨_, _, _, -, hd, -⟩
    · exact absurd (by rw [hp]) hk
    · rw [e]; rfl
    · rw [hp] at hd
      subst hd
      simp at hbad
  rw [hstep, failExchange_afterResponsePoll, hcls, rxAnswer_header_withHost]
  exact ⟨_, rfl, rfl, fun _ => rfl⟩

/-! ### An unusable poll during reassembly -/

/-- Whatever made it unusable, a poll no usable Consecutive Frame is parsed from is the unusable poll of rule R167. -/
theorem pollConsecutive_of_unusable {s : State} (hs : s.status.tstate = .reassembling)
    (hu : UnusableAnswer s.csr.nad (rxAnswer 11 (header 0x3D s))) :
    runFetched (pollConsecutive s) = .next (unusablePoll (afterCfPoll s)) := by
  rcases pollConsecutive_cases s with ⟨-, e⟩ | ⟨t, v, data, hk, hd, -, e⟩ <;> rw [e]
  · rfl
  · rcases exec_frame_reassembling t v data (s := afterCfPoll s) (by simpa using hs) with hx | ⟨rfl, hne, -⟩
    · exact hx
    · obtain ⟨b, f, rfl⟩ := List.exists_cons_of_ne_nil hne
      refine absurd ⟨v, b, f, (recvParsed diagRespId .classic s).cls, ?_⟩ hu
      rw [List.take_of_length_le (rxAnswer_length 11 _), ← recvParsed_diag s s.host, ← hk, ← hd]

/-- Settles O36: the poll is unusable, and `RETRY`, at most 30 before, does not wrap. -/
theorem unusablePollCountsARetry : Obligations.UnusablePollCountsARetry := by
  intro s rest hex hmax hretry hu r trace status
  have hstep : step s = .next (unusablePoll (afterCfPoll { s with host := rest })) := by
    rw [step_of_reassembling hex]
    exact pollConsecutive_of_unusable hex.tstate (by rwa [rxAnswer_header_withHost])
  have hcount : (BitVec.ofNat 5 (s.retry.toNat + 1)).toNat = s.retry.toNat + 1 := by
    rw [BitVec.toNat_ofNat]; omega
  have hread := afterCfPoll_eq { s with host := rest }
  rw [recvParsed_diag, rxAnswer_header_withHost 11 0x3D s rest, RClass.matched_eq_decide] at hread
  rw [hstep, hread]
  rcases Nat.lt_or_ge s.csr.maxRetries.toNat (s.retry.toNat + 1) with exhausted | left
  · rw [unusablePoll_of_exhausted (by exact exhausted)]
    refine ⟨_, rfl, hcount, fun left => ?_, fun _ => ⟨rfl, fun _ => Memory.read_ofBytesAt_zero _ _⟩⟩
    exact absurd (hcount ▸ left) (Nat.not_le.mpr exhausted)
  · rw [unusablePoll_of_left (by exact left)]
    refine ⟨_, rfl, hcount, fun _ => rfl, fun exhausted => ?_⟩
    exact absurd (hcount ▸ exhausted) (Nat.not_lt.mpr left)

end Sys2Proof.Machine
end

section
/-! Every exchange ends within its bound of polls (rule R171). -/

namespace Sys2Proof.Machine

/-- The exchange has ended (rules R156 to R159, R168, R169). -/
def ExchangeOver (t : State) : Prop :=
  t.status.busy = false ∧ (t.status.tstate = .done ∨ t.status.tstate = .failed)

/-- A poll ends the exchange or leaves fewer polls to make. -/
def PollProgress (s t : State) : Prop := ExchangeOver t ∨ polling t = true ∧ pollsLeft t < pollsLeft s

theorem pollsLeft_of_awaiting {s : State} (h : s.status.tstate = .awaitingResponse) :
    pollsLeft s = s.csr.respPolls.toNat - s.att.toNat + 4096 * 31 := by simp [pollsLeft, h]

theorem pollsLeft_of_reassembling {s : State} (h : s.status.tstate = .reassembling) : pollsLeft s =
    (s.tlen.toNat - s.coll.length) * (s.csr.maxRetries.toNat + 1) + (s.csr.maxRetries.toNat + 1 - s.retry.toNat) := by
  simp [pollsLeft, h]

/-- A reassembly has at most `TLEN` bytes to wait for, each at the cost of `MAX_RETRIES + 1` polls (rule R171). -/
theorem pollsLeft_reassembling_le {s : State} (h : s.status.tstate = .reassembling)
    (hmax : s.csr.maxRetries.toNat ≤ 30) : pollsLeft s ≤ 4096 * 31 := by
  have hbytes : s.tlen.toNat - s.coll.length ≤ 4095 := by have := s.tlen.isLt; omega
  have hprod := Nat.mul_le_mul hbytes (Nat.succ_le_succ hmax)
  rw [pollsLeft_of_reassembling h]
  simp only [Nat.succ_eq_add_one] at hprod
  omega

/-- The bound of rule R171 as a number. -/
theorem pollsLeft_le {s : State} (h : BlockInv s) : pollsLeft s ≤ 127231 := by
  cases hts : s.status.tstate with
  | awaitingResponse => have := s.csr.respPolls.isLt; rw [pollsLeft_of_awaiting hts]; omega
  | reassembling => have := pollsLeft_reassembling_le hts h.max_retries.2; omega
  | _ => simp [pollsLeft, hts]

/-! ### One poll -/

/-- After a completion test the exchange is over, or the reassembly goes on as it stands (rule R163). -/
theorem completionTest_over_or_same (s : State) :
    ExchangeOver (completionTest s) ∨ s.coll.length < s.tlen.toNat ∧ completionTest s = s := by
  rcases completionTest_cases s with ⟨-, e⟩ | ⟨missing, e⟩
  · exact .inl (by rw [e]; exact ⟨rfl, .inl rfl⟩)
  · exact .inr ⟨missing, e⟩

/-- An unusable poll ends the exchange or uses up a retry (rules R167, R168). -/
theorem unusablePoll_progress {s : State} (hts : s.status.tstate = .reassembling) (hmax : s.csr.maxRetries.toNat ≤ 30) :
    PollProgress s (unusablePoll s) := by
  rcases unusablePoll_cases s with ⟨left, e⟩ | ⟨-, e⟩ <;> rw [e]
  · have hcount : (BitVec.ofNat 5 (s.retry.toNat + 1)).toNat = s.retry.toNat + 1 := by
      rw [BitVec.toNat_ofNat]; omega
    refine .inr ⟨(polling_iff _).mpr (.inr hts), ?_⟩
    rw [pollsLeft_of_reassembling hts, pollsLeft_of_reassembling (by exact hts)]
    simp only [hcount]
    omega
  · exact .inl ⟨rfl, .inr rfl⟩

/-- An accepted Consecutive Frame brings a byte at least, which pays for the retries it gives back (rule R166). -/
theorem append_progress {s : State} (hts : s.status.tstate = .reassembling)
    (hretry : s.retry.toNat ≤ s.csr.maxRetries.toNat) {data : List Byte} (hd : data ≠ []) :
    PollProgress s (completionTest { s with coll := s.coll ++ data.take 6, retry := 0 }) := by
  rcases completionTest_over_or_same { s with coll := s.coll ++ data.take 6, retry := 0 } with ended | ⟨missing, e⟩
  · exact .inl ended
  · refine .inr ⟨by rw [e]; exact (polling_iff _).mpr (.inr hts), ?_⟩
    rw [e, pollsLeft_of_reassembling hts, pollsLeft_of_reassembling (by exact hts)]
    have hpos := List.length_pos_iff.mpr hd
    simp only [List.length_append, List.length_take] at missing ⊢
    have hbytes : s.tlen.toNat - (s.coll.length + min 6 data.length) + 1 ≤ s.tlen.toNat - s.coll.length := by omega
    have hcost := Nat.mul_le_mul_right (s.csr.maxRetries.toNat + 1) hbytes
    rw [Nat.add_mul] at hcost
    omega

/-- An initial poll ends the exchange, counts in `ATT`, or starts a reassembly (rules R155 to R163). -/
theorem pollResponse_progress {s t : State} (h : BlockInv s) (hts : s.status.tstate = .awaitingResponse)
    (he : runFetched (pollResponse s) = .next t) : PollProgress s t := by
  have hatt := h.attempts hts
  rcases pollResponse_cases s with ⟨-, hp⟩ | ⟨-, -, hp⟩ | ⟨ty, v, data, -, -, -, hp⟩ <;> rw [hp] at he
  · cases he
    split
    · rename_i left
      have hts' : (afterResponsePoll s).status.tstate = .awaitingResponse := by simpa using hts
      refine .inr ⟨(polling_iff _).mpr (.inl hts'), ?_⟩
      rw [pollsLeft_of_awaiting hts, pollsLeft_of_awaiting hts']
      have := s.csr.respPolls.isLt
      simp only [afterResponsePoll_csr, afterResponsePoll_att, BitVec.toNat_ofNat]
      omega
    · exact .inl ⟨rfl, .inr rfl⟩
  · cases he; exact .inl ⟨rfl, .inr rfl⟩
  · rcases exec_frame_first ty v data (s := afterResponsePoll s) (by simpa using hts) with hx | ⟨-, hx⟩ |
      ⟨lo, seed, -, hx⟩ <;> cases hx.symm.trans he
    · exact .inl ⟨rfl, .inr rfl⟩
    · exact .inl ⟨rfl, .inl rfl⟩
    · rcases completionTest_over_or_same (flowControl (setTState .reassembling
        { afterResponsePoll s with tlen := v ++ lo, coll := seed.take 5, retry := 0 })) with ended | ⟨-, e⟩
      · exact .inl ended
      · rw [e]
        have hts' := congrArg Status.tstate (flowControl_status (setTState .reassembling
          { afterResponsePoll s with tlen := v ++ lo, coll := seed.take 5, retry := 0 }))
        refine .inr ⟨(polling_iff _).mpr (.inr hts'), ?_⟩
        have hle := pollsLeft_reassembling_le hts'
          (by rw [(flowControl_kept _).csr]; simpa [setTState] using h.max_retries.2)
        rw [pollsLeft_of_awaiting hts]
        omega

/-- The read of a Consecutive-Frame poll alone uses up none of the measure. -/
theorem pollsLeft_afterCfPoll (s : State) : pollsLeft (afterCfPoll s) = pollsLeft s := by simp [pollsLeft]

/-- A Consecutive-Frame poll ends the exchange, uses up a retry, or brings bytes (rules R164 to R169). -/
theorem pollConsecutive_progress {s t : State} (h : BlockInv s) (hts : s.status.tstate = .reassembling)
    (he : runFetched (pollConsecutive s) = .next t) : PollProgress s t := by
  have hts' : (afterCfPoll s).status.tstate = .reassembling := by simpa using hts
  have unusable := unusablePoll_progress hts' (by simpa using h.max_retries.2)
  unfold PollProgress at unusable ⊢
  rw [pollsLeft_afterCfPoll] at unusable
  rcases pollConsecutive_cases s with ⟨-, hp⟩ | ⟨ty, v, data, -, -, -, hp⟩ <;> rw [hp] at he
  · cases he; exact unusable
  · rcases exec_frame_reassembling ty v data hts' with hx | ⟨-, hd, hx⟩ <;> cases hx.symm.trans he
    · exact unusable
    · have appended := append_progress hts' (by simpa using (h.pending hts).2) hd
      unfold PollProgress at appended
      rwa [pollsLeft_afterCfPoll] at appended

/-! ### The run of polls -/

/-- In a sound state in which a DREQ polls, a step is a poll: it keeps the state sound and makes progress. -/
theorem poll_step {s : State} (h : BlockInv s) (hr : OnlyRuns s) (hp : polling s = true) :
    ∃ t, step s = .next t ∧ BlockInv t ∧ OnlyRuns t ∧ PollProgress s t := by
  have hlets := letsBlockRun_of_onlyRuns hr
  have hu := h.withHost s.host.tail
  obtain ⟨busy, len, hd⟩ := h.exchange hp
  have hpoll : ∃ t, step s = .next t ∧ Kept { s with host := s.host.tail } t ∧
      PollProgress { s with host := s.host.tail } t := by
    rcases (polling_iff s).mp hp with hts | hts
    · obtain ⟨t, ht⟩ := pollResponse_answers { s with host := s.host.tail }
      exact ⟨t, (step_of_awaiting ⟨hlets, busy, hts, len, hd⟩).trans ht, pollResponse_kept ht,
        pollResponse_progress hu hts ht⟩
    · obtain ⟨t, ht⟩ := pollConsecutive_answers { s with host := s.host.tail }
      exact ⟨t, (step_of_reassembling ⟨hlets, busy, hts, len, hd⟩).trans ht, pollConsecutive_kept ht,
        pollConsecutive_progress hu hts ht⟩
  obtain ⟨t, hstep, kept, progress⟩ := hpoll
  refine ⟨t, hstep, everyMoveKeepsTheBlockSound s t h hstep, ?_, progress⟩
  unfold OnlyRuns
  rw [kept.host]
  exact onlyRuns_rest hlets hr

/-- Where a DREQ polls there is a poll left to make. -/
theorem pollsLeft_pos {s : State} (h : BlockInv s) (hp : polling s = true) : 0 < pollsLeft s := by
  rcases (polling_iff s).mp hp with hts | hts
  · rw [pollsLeft_of_awaiting hts]; omega
  · have := (h.pending hts).2
    rw [pollsLeft_of_reassembling hts]; omega

/-- By the decreasing measure, at most `pollsLeft` polls end the exchange. -/
theorem polls_end (s : State) (h : BlockInv s) (hr : OnlyRuns s) (hp : polling s = true) :
    ∃ k t, k ≤ pollsLeft s ∧ moves k s = some t ∧ ExchangeOver t := by
  induction hn : pollsLeft s using Nat.strong_induction_on generalizing s with
  | _ n ih =>
    subst hn
    obtain ⟨t, hstep, ht, hrt, ended | ⟨hpt, hless⟩⟩ := poll_step h hr hp
    · exact ⟨1, t, pollsLeft_pos h hp, (moves_succ_of_step hstep 0).trans (moves_zero t), ended⟩
    · obtain ⟨k, u, hk, hm, ended⟩ := ih (pollsLeft t) hless t ht hrt hpt rfl
      exact ⟨k + 1, u, by omega, (moves_succ_of_step hstep k).trans hm, ended⟩

/-- Settles O37: the polls end the exchange within the measure, and the measure is within the number. -/
theorem exchangeEndsWithinItsPollBound : Obligations.ExchangeEndsWithinItsPollBound := by
  intro s h hr hp
  obtain ⟨k, t, hk, hm, busy, ended⟩ := polls_end s h hr hp
  exact ⟨k, t, hk, hk.trans (pollsLeft_le h), hm, busy, ended⟩

end Sys2Proof.Machine
end

section
/-! A segmented response is reassembled exactly (rule R174). -/

namespace Sys2Proof.Machine

/-- Under the configuration `c` a DREQ reassembles the response `r`: `rest` of it is still missing, `n` unusable polls
came in a row, and `more` are the answers to come. -/
structure Reassembling (c : Csrs) (r rest : List Byte) (n : Nat) (more : List (List Byte)) (s : State) : Prop where
  exchanging : ∃ pending, Exchanging .reassembling pending s
  runs : OnlyRuns s
  config : s.csr = c
  length : s.tlen.toNat = r.length
  collected : s.coll ++ rest = r
  retries : s.retry.toNat = n
  answers : s.xcvr.rx = more

/-- The exchange has ended with exactly the response `r` (rule R169). -/
def Delivered (r : List Byte) (t : State) : Prop :=
  t.status.busy = false ∧ t.status.done = true ∧ t.status.tstate = .done ∧ t.rlen.toNat = r.length ∧
    ∀ k, t.rbuf.read k = r[k]?

/-- A frame `f` of `k` bytes that carries the next bytes of `rest`, the last frame padded, is tested for completion: it
delivers the response, or the rest of it is still missing (rules R163, R169). -/
theorem completionTest_of_carried {s : State} {r pre rest f : List Byte} {k : Nat} (hlen : s.tlen.toNat = r.length)
    (hcoll : s.coll = pre ++ f) (hr : pre ++ rest = r) (full : f.length = k)
    (carries : f.take rest.length = rest.take k) :
    (rest.drop k = [] → Delivered r (completionTest s)) ∧
    (rest.drop k ≠ [] → completionTest s = s ∧ s.coll ++ rest.drop k = r) := by
  refine ⟨fun last => ?_, fun missing => ?_⟩
  · rw [List.take_of_length_le (List.drop_eq_nil_iff.mp last)] at carries
    have hpad : s.coll = r ++ f.drop rest.length := by
      rw [hcoll, ← hr, List.append_assoc]
      exact congrArg (pre ++ ·) ((List.take_append_drop rest.length f).symm.trans (by rw [carries]))
    have htake : s.coll.take s.tlen.toNat = r := by rw [hpad, hlen, List.take_left]
    rw [completionTest_of_enough (by rw [hlen, hpad]; simp), htake]
    refine ⟨rfl, rfl, rfl, ?_, fun _ => Memory.read_ofBytesAt_zero _ _⟩
    have := s.tlen.isLt
    simp only [BitVec.toNat_ofNat]
    omega
  · have hlt : k < rest.length := by
      by_contra hle
      exact missing (List.drop_eq_nil_iff.mpr (Nat.le_of_not_lt hle))
    rw [List.take_of_length_le (by omega)] at carries
    have hcollected : s.coll ++ rest.drop k = r := by
      rw [hcoll, carries, List.append_assoc, List.take_append_drop, hr]
    refine ⟨completionTest_of_missing ?_, hcollected⟩
    have total := congrArg List.length hcollected
    rw [List.length_append, List.length_drop] at total
    omega

/-- What a poll that reads a listed answer returns (rules R133, R155, R164). -/
theorem recvParsed_of_listed {s : State} {a : List Byte} {more : List (List Byte)} (h : s.xcvr.rx = a :: more)
    (hs : List HostAction) : recvParsed diagRespId .classic { s with host := hs } =
      parse 0x7D (a.take 11) .classic := by
  rw [recvParsed_diag, rxAnswer_header_of_listed h]

/-- A poll's read in reassembly takes the listed answer. -/
theorem afterCfPoll_rx {s : State} {a : List Byte} {more : List (List Byte)} (h : s.xcvr.rx = a :: more) :
    (afterCfPoll s).xcvr.rx = more := recvState_rx_of_listed h

theorem afterResponsePoll_rx {s : State} {a : List Byte} {more : List (List Byte)} (h : s.xcvr.rx = a :: more) :
    (afterResponsePoll s).xcvr.rx = more := recvState_rx_of_listed h

/-- A poll that leaves the exchange in reassembly leaves it to the next poll. -/
theorem exchanging_of_kept {ts : TState} {pending : List HostAction} {s t : State} (hex : Exchanging ts pending s)
    (hr : OnlyRuns s) (kept : Kept { s with host := pending } t) (busy : t.status.busy = s.status.busy)
    (hts : t.status.tstate = .reassembling) : (∃ pending', Exchanging .reassembling pending' t) ∧ OnlyRuns t := by
  obtain ⟨hlets, hb, -, len, hd⟩ := hex
  have runs : OnlyRuns t := by unfold OnlyRuns; rw [kept.host]; exact onlyRuns_rest hlets hr
  exact ⟨⟨_, letsBlockRun_of_onlyRuns runs, busy.trans hb, hts, len, by rw [kept.cur, hd]⟩, runs⟩

theorem CfAnswers.eq_nil {nad : Byte} {max n : Nat} {answers : List (List Byte)} (h : CfAnswers nad max n [] answers) :
    answers = [] := by
  cases h with
  | complete => rfl
  | frame => contradiction
  | unusable => contradiction

/-! ### One answer of the reassembly -/

section
variable {c : Csrs} {r rest : List Byte} {n : Nat} {answer : List Byte} {more : List (List Byte)} {s : State}

/-- An unusable answer with retries left changes nothing but `RETRY` (rule R167). -/
theorem Reassembling.step_of_unusable (h : Reassembling c r rest n (answer :: more) s)
    (hbad : UnusableAnswer c.nad answer) (left : n < c.maxRetries.toNat) :
    ∃ t, step s = .next t ∧ Reassembling c r rest (n + 1) more t := by
  obtain ⟨⟨pending, hex⟩, runs, config, length, collected, retries, answers⟩ := h
  have hts := hex.tstate
  have hu : UnusableAnswer s.csr.nad (rxAnswer 11 (header 0x3D { s with host := pending })) := by
    rw [rxAnswer_header_withHost, rxAnswer_header_of_listed answers, config]
    simpa [UnusableAnswer, List.take_take] using hbad
  have hrun := pollConsecutive_of_unusable (s := { s with host := pending }) hts hu
  have kept := pollConsecutive_kept hrun
  rw [unusablePoll_of_left (by simp [retries, config]; omega)] at hrun kept
  obtain ⟨hex', runs'⟩ := exchanging_of_kept hex runs kept (by simp) (by simpa using hts)
  refine ⟨_, (step_of_reassembling hex).trans hrun, hex', runs', kept.csr.trans config, ?_, ?_, ?_, ?_⟩
  · simpa using length
  · simpa using collected
  · have := c.maxRetries.isLt
    simp [retries]
    omega
  · exact afterCfPoll_rx answers

/-- A Consecutive Frame with the next bytes delivers the response or leaves fewer of them missing (rule R166). -/
theorem Reassembling.step_of_frame (h : Reassembling c r rest n (answer :: more) s) {seq : BitVec 4} {f : List Byte}
    {cls : RClass}
    (usable : parse 0x7D (answer.take 11) .classic = { kind := .none, data := c.nad :: pciByte 2 seq :: f, cls := cls })
    (full : f.length = 6) (carries : f.take rest.length = rest.take 6) :
    ∃ t, step s = .next t ∧
      (rest.drop 6 = [] → Delivered r t) ∧ (rest.drop 6 ≠ [] → Reassembling c r (rest.drop 6) 0 more t) := by
  obtain ⟨⟨pending, hex⟩, runs, config, length, collected, retries, answers⟩ := h
  have hts := hex.tstate
  subst config
  have hp := (recvParsed_of_listed answers pending).trans usable
  have hd : decodeResponse (pciByte 2 seq :: f) = .ok (.cf seq f) :=
    decodeResponse_pciByte 2 seq (by rw [full]; exact Nat.le_refl 6)
  have hrun : runFetched (pollConsecutive { s with host := pending }) = .next (completionTest
      { afterCfPoll { s with host := pending } with
        coll := (afterCfPoll { s with host := pending }).coll ++ f, retry := 0 }) := by
    rw [pollConsecutive_of_frame hp hd]
    refine (exec_cf_reassembling (by simpa using hts) seq (by rintro rfl; cases full)).trans ?_
    rw [List.take_of_length_le (by omega)]
  have kept := pollConsecutive_kept hrun
  obtain ⟨hlast, hmissing⟩ := completionTest_of_carried
    (s := { afterCfPoll { s with host := pending } with
      coll := (afterCfPoll { s with host := pending }).coll ++ f, retry := 0 })
    (by simpa using length) (by simp) collected full carries
  refine ⟨_, (step_of_reassembling hex).trans hrun, hlast, fun missing => ?_⟩
  obtain ⟨heq, hcollected⟩ := hmissing missing
  rw [heq] at kept ⊢
  obtain ⟨hex', runs'⟩ := exchanging_of_kept hex runs kept (by simp) (by simpa using hts)
  exact ⟨hex', runs', kept.csr, by simpa using length, hcollected, rfl, afterCfPoll_rx answers⟩

/-- The remaining answers deliver the response, one move each (rule R174). -/
theorem Reassembling.delivers (hanswers : CfAnswers c.nad c.maxRetries.toNat n rest more) (hrest : rest ≠ [])
    (h : Reassembling c r rest n more s) : ∃ t, moves more.length s = some t ∧ Delivered r t := by
  induction hanswers generalizing s with
  | complete => exact absurd rfl hrest
  | frame n rest answer more seq f cls _ usable full carries tail ih =>
    obtain ⟨t, hstep, last, missing⟩ := h.step_of_frame usable full carries
    by_cases hdrop : rest.drop 6 = []
    · obtain rfl : more = [] := CfAnswers.eq_nil (hdrop ▸ tail)
      exact ⟨t, (moves_succ_of_step hstep 0).trans (moves_zero t), last hdrop⟩
    · obtain ⟨u, hmoves, delivered⟩ := ih hdrop (missing hdrop)
      exact ⟨u, (moves_succ_of_step hstep _).trans hmoves, delivered⟩
  | unusable n rest answer more _ bad left tail ih =>
    obtain ⟨t, hstep, ht⟩ := h.step_of_unusable bad left
    obtain ⟨u, hmoves, delivered⟩ := ih hrest ht
    exact ⟨u, (moves_succ_of_step hstep _).trans hmoves, delivered⟩

end

/-! ### The whole response -/

/-- The First Frame of a response delivers it or starts its reassembly (rules R160 to R163). -/
theorem step_of_firstFrame {s : State} {pending : List HostAction} {r first : List Byte} {hi : BitVec 4} {lo : Byte}
    {cls : RClass} {answer : List Byte} {more : List (List Byte)} (hex : Exchanging .awaitingResponse pending s)
    (runs : OnlyRuns s) (answers : s.xcvr.rx = answer :: more)
    (usable : parse 0x7D (answer.take 11) .classic =
      { kind := .none, data := s.csr.nad :: pciByte 1 hi :: lo :: first, cls := cls })
    (hlen : hi.toNat * 256 + lo.toNat = r.length) (full : first.length = 5) (carries : first.take r.length = r.take 5) :
    ∃ t, step s = .next t ∧
      (r.drop 5 = [] → Delivered r t) ∧ (r.drop 5 ≠ [] → Reassembling s.csr r (r.drop 5) 0 more t) := by
  have hp := (recvParsed_of_listed answers pending).trans usable
  have hd : decodeResponse (pciByte 1 hi :: lo :: first) = .ok (.ff hi (lo :: first)) :=
    decodeResponse_pciByte 1 hi (by rw [List.length_cons, full]; exact Nat.le_refl 6)
  obtain ⟨rpid, trace, xcvr, heq, port⟩ := acceptFirst_cons hi lo first (afterResponsePoll { s with host := pending })
  have hrun : runFetched (pollResponse { s with host := pending }) = .next (acceptFirst hi (lo :: first)
      (afterResponsePoll { s with host := pending })) := by
    rw [pollResponse_of_frame hp hd]
    exact exec_ff_first (by simpa using hex.tstate) hi (lo :: first)
  have htlen : (hi ++ lo).toNat = r.length := (firstFrameLength_toNat hi lo).trans hlen
  have hcoll : first.take 5 = first := List.take_of_length_le (by omega)
  rw [heq, hcoll] at hrun
  have kept := pollResponse_kept hrun
  obtain ⟨hlast, hmissing⟩ := completionTest_of_carried (pre := []) (s := {
      afterResponsePoll { s with host := pending } with
      tlen := hi ++ lo, coll := first, retry := 0, rpid := rpid, trace := trace, xcvr := xcvr
      status := { (afterResponsePoll { s with host := pending }).status with tstate := .reassembling } })
    htlen rfl rfl full carries
  refine ⟨_, (step_of_awaiting hex).trans hrun, hlast, fun missing => ?_⟩
  obtain ⟨hgoes, hcollected⟩ := hmissing missing
  rw [hgoes] at kept ⊢
  obtain ⟨hex', runs'⟩ := exchanging_of_kept hex runs kept (by simp) rfl
  exact ⟨hex', runs', kept.csr, htlen, hcollected, rfl, port.answers.trans (afterResponsePoll_rx answers)⟩

/-- Settles O38: the First Frame, then the induction over the answers that carry the rest. -/
theorem reassemblyGivesTheResponse : Obligations.ReassemblyGivesTheResponse := by
  intro s r first hi lo cls answer more pending hex runs _ _ _ answers usable hlen full carries hanswers
  obtain ⟨t, hstep, last, missing⟩ := step_of_firstFrame hex runs answers usable hlen full carries
  by_cases hdrop : r.drop 5 = []
  · obtain rfl : more = [] := CfAnswers.eq_nil (hdrop ▸ hanswers)
    exact ⟨t, (moves_succ_of_step hstep 0).trans (moves_zero t), last hdrop⟩
  · obtain ⟨u, hmoves, delivered⟩ := Reassembling.delivers hanswers hdrop (missing hdrop)
    exact ⟨u, (moves_succ_of_step hstep _).trans hmoves, delivered⟩

end Sys2Proof.Machine
end

section
/-! A word on the command port (rules R190 and R191). -/

namespace Sys2Proof.Machine

/-! ### While busy -/

/-- A word but the reset word that arrives while busy is dropped (rule R191). -/
theorem commandArrives_of_busy {s : State} {w : Word} (hb : s.status.busy = true) (hr : decodeCommand w ≠ .ok .rst) :
    commandArrives w s = .settled (.next (setOverrun s)) := by
  unfold commandArrives
  split
  · exact absurd ‹_› hr
  · simp [hb]

/-- The reset word is accepted whether or not the block is busy (rules R191, R194). -/
theorem commandArrives_resetWord (s : State) : commandArrives 0xC000 s = .run .rst s := by
  simp [commandArrives]

/-- Settles O7: the word is dropped unless it decodes to RST, and only the reset word does. -/
theorem wordWhileBusyIsDropped : Obligations.WordWhileBusyIsDropped := by
  intro s w rest hb hh
  rw [step_of_issue hh]
  refine ⟨fun hw => ?_, fun hw => ?_⟩
  · rw [commandArrives_of_busy (by exact hb) (mt decodeCommand_eq_rst hw)]
    rfl
  · rw [hw, commandArrives_resetWord]
    rfl

/-! ### The checks of rule R190 are the decoder's -/

theorem kind_toNat_le_one {kind : BitVec 2} : kind.toNat ≤ 1 ↔ kind = 0 ∨ kind = 1 := by revert kind; decide

theorem kind_toNat_le_two {kind : BitVec 2} : kind.toNat ≤ 2 ↔ kind = 0 ∨ kind = 1 ∨ kind = 2 := by
  revert kind; decide

/-- A word that passes every check of rule R190 decodes: opcode by opcode the decoder asks for no more. -/
theorem exists_decodeCommand_of_wordLegal {w : Word} (h : wordLegal w = true) : ∃ i, decodeCommand w = .ok i := by
  simp only [wordLegal, shiftRight_twelve_toNat, shiftRight_six_and_toNat, shiftRight_four_and_toNat,
    and_fifteen_toNat, Bool.and_eq_true] at h
  obtain ⟨⟨⟨-, hid⟩, hkind⟩, hlen⟩ := h
  simp only [decodeCommand]
  split <;> rename_i hop
  case h_13 => simp [idLegal, *] at hid
  all_goals
    simp only [hop, idLegal, kindLegal, lenLegal, kind_toNat_le_one, kind_toNat_le_two, beq_iff_eq,
      BitVec.toNat_eq_nat, Bool.and_eq_true, decide_eq_true_eq] at hid hkind hlen
  case h_11 =>
    obtain ⟨r, hr⟩ := (exists_csrOfIndex_iff _).mpr hid
    simp [hr, hkind, hlen]
  case h_1 | h_3 | h_7 => simp [hkind, hlen]
  case h_2 | h_10 | h_12 => simp [hid, hkind, hlen]
  case h_4 | h_8 => rcases hkind with h | h <;> simp [h, hlen]
  case h_5 | h_6 | h_9 => rcases hkind with h | h | h <;> simp [h, hlen]

/-- A word that fails a check of rule R190 is rejected. -/
theorem exists_reject_of_not_wordLegal {w : Word} (h : wordLegal w = false) : ∃ e, decodeCommand w = .error e := by
  cases hd : decodeCommand w with
  | error e => exact ⟨e, rfl⟩
  | ok i => simp [(wordLegal_of_decodeCommand hd).1] at h

/-! ### While idle -/

/-- A command one of whose operand bytes holds no value is the model fault at its dispatch (rules R23, R190). -/
theorem dispatch_of_dbufLacks {s : State} {w : Word} {i : Instr} (hd : decodeCommand w = .ok i)
    (h : DbufLacks s (operandCount i)) : dispatch w s = .fault .undefOperand := by
  simp only [dispatch, hd, withOperands_of_dbufLacks h]

/-- Settles O6: an illegal word is one the decoder rejects; a legal one is latched or faults on its operands. -/
theorem dispatchOfAnArrivingWord : Obligations.DispatchOfAnArrivingWord := by
  intro s w rest hb hh hw
  have hstep : step s = dispatch w { s with host := rest } := by
    rw [step_of_issue hh, commandArrives_of_idle (by exact hb) (mt decodeCommand_eq_rst hw)]
    rfl
  refine ⟨fun illegal => ?_, fun legal bytes hlen hbytes => ?_, fun legal lacks => ?_⟩
  · obtain ⟨e, hd⟩ := exists_reject_of_not_wordLegal illegal
    exact step_of_rejected hh hb hd
  · obtain ⟨i, hd⟩ := exists_decodeCommand_of_wordLegal legal
    exact hstep.trans (dispatch_of_dbufHolds hd (hlen.trans (wordLegal_of_decodeCommand hd).2) hbytes)
  · obtain ⟨i, hd⟩ := exists_decodeCommand_of_wordLegal legal
    rw [(wordLegal_of_decodeCommand hd).2] at lacks
    exact hstep.trans (dispatch_of_dbufLacks hd lacks)

end Sys2Proof.Machine
end

section
/-! CFG and the CSR file (rules R34 and R193). -/

namespace Sys2Proof.Machine

/-- The model's check of a CSR's value is the table of rule R34. -/
theorem csrLegal_iff_valueLegal (r : Csr) (v : Word) : csrLegal r v = true ↔ valueLegal r v.toNat := by
  have hv := v.isLt
  cases r <;> simp [csrLegal, valueLegal] <;> omega

/-- A CFG's value is its two bytes, low byte first (rule R193). -/
theorem cfgValue_toNat (lo hi : Byte) : (cfgValue [lo, hi]).toNat = lo.toNat + hi.toNat * 256 := by
  show (hi ++ lo).toNat = _
  rw [BitVec.toNat_append, ← Nat.shiftLeft_add_eq_or_of_lt lo.isLt, Nat.shiftLeft_eq]
  omega

/-- A legal value fits its CSR's width, so it reads back whole. -/
theorem csrRead_csrWrite_same {r : Csr} {v : Word} (h : csrLegal r v = true) (c : Csrs) :
    csrRead r (csrWrite r v c) = v := by
  rw [csrLegal_iff_valueLegal] at h
  cases r with
  | respTmo | cfTmo | appTmo | ifg => rfl
  | _ =>
    simp only [valueLegal] at h
    apply BitVec.eq_of_toNat_eq
    simp only [csrRead, csrWrite, BitVec.toNat_setWidth]
    omega

/-- Each CSR is a field of its own in the file. -/
theorem csrRead_csrWrite_other {q r : Csr} (h : q ≠ r) (v : Word) (c : Csrs) :
    csrRead q (csrWrite r v c) = csrRead q c := by
  revert h
  cases r <;> cases q <;> simp [csrRead, csrWrite]

/-- Settles O39: on defined operands the body runs; its value and its check are the rule's, and the CSR file reads
back what was written. -/
theorem cfgWritesOneRegisterOrIsRefused : Obligations.CfgWritesOneRegisterOrIsRefused := by
  intro s r lo hi hbytes
  have hexec : exec (.cfg r) s = .next (if csrLegal r (cfgValue [lo, hi]) then
      finishOk { s with csr := csrWrite r (cfgValue [lo, hi]) s.csr } else refuse s) :=
    withOperands_of_dbufHolds rfl hbytes _
  rw [← cfgValue_toNat, ← csrLegal_iff_valueLegal, hexec]
  refine ⟨rfl, fun legal => ⟨csrWrite r (cfgValue [lo, hi]) s.csr, ?_, ?_, fun q hq => ?_⟩, fun illegal => ?_⟩
  · rw [if_pos legal]; rfl
  · rw [csrRead_csrWrite_same legal]
  · exact csrRead_csrWrite_other hq _ _
  · rw [if_neg illegal]; rfl

end Sys2Proof.Machine
end

section
/-! The value `X.bsi` returns changes nothing but its own record in the trace (rules R130, R226). -/

namespace Sys2Proof.Machine

/-! ### States that differ only in returned values -/

/-- `s` with another trace and other values for `X.bsi` to return. -/
def withReturned (trace : List Event) (bsi : List Byte) (s : State) : State :=
  { s with trace := trace, xcvr := { s.xcvr with bsi := bsi } }

/-- The relation as an update: another trace, the same once the returned values are forgotten, and as many other values
to return. -/
theorem sameButReturned_iff {s s' : State} : SameButReturned s s' ↔
    ∃ trace bsi, s' = withReturned trace bsi s ∧ s.trace.map Event.forget = trace.map Event.forget ∧
      s.xcvr.bsi.length = bsi.length := by
  constructor
  · rintro ⟨hrest, htrace, hbsi⟩
    exact ⟨s'.trace, s'.xcvr.bsi, (congrArg (withReturned s'.trace s'.xcvr.bsi) hrest :).symm, htrace, hbsi⟩
  · rintro ⟨trace, bsi, rfl, htrace, hbsi⟩
    exact ⟨rfl, htrace, hbsi⟩

/-- Two outcomes that differ at most in the values `X.bsi` returned and is about to return. -/
inductive SameOutcome : Host.Outcome State Fault Refusal → Host.Outcome State Fault Refusal → Prop where
  | next {t t' : State} (h : SameButReturned t t') : SameOutcome (.next t) (.next t')
  | fault (f : Fault) : SameOutcome (.fault f) (.fault f)

theorem SameOutcome.of_next {t : State} {o : Host.Outcome State Fault Refusal} (h : SameOutcome (.next t) o) :
    ∃ t', o = .next t' ∧ SameButReturned t t' := by
  cases h with
  | next h => exact ⟨_, rfl, h⟩

theorem SameOutcome.of_fault {f : Fault} {o : Host.Outcome State Fault Refusal} (h : SameOutcome (.fault f) o) :
    o = .fault f := by
  cases h
  rfl

/-! ### The values to return -/

/-- `X.bsi` with a listed value records it and takes it off the list. -/
theorem xBsi_of_listed {s : State} {b : Byte} {rest : List Byte} (hl : s.xcvr.bsi = b :: rest) (id : BitVec 6) :
    xBsi id s = withReturned (s.trace ++ [.bsi id b]) rest s := by
  simp only [xBsi, bsiReturned, hl]; rfl

/-- `X.bsi` with no listed value records a free one and counts it as drawn. -/
theorem xBsi_of_unlisted {s : State} (hl : s.xcvr.bsi = []) (id : BitVec 6) :
    xBsi id s = withReturned (s.trace ++ [.bsi id (Config.bsiReturn s.xcvr.draws)]) []
      { s with xcvr := { s.xcvr with draws := s.xcvr.draws + 1 } } := by
  simp only [xBsi, bsiReturned, hl]
  rw [← hl]; rfl

/-! ### What keeps the relation -/

section
variable {s s' : State} (h : SameButReturned s s')
include h

/-- What looks at neither the trace nor the values to return reads the same in both states. -/
theorem SameButReturned.read {α : Type} (g : State → α)
    (hg : ∀ trace bsi, g (withReturned trace bsi s) = g s := by intros; rfl) : g s' = g s := by
  obtain ⟨trace, bsi, rfl, -⟩ := sameButReturned_iff.mp h
  exact hg trace bsi

/-- An operation that neither looks at the trace and the values to return nor writes them keeps the relation. -/
theorem SameButReturned.map (f : State → State)
    (hf : ∀ trace bsi, f (withReturned trace bsi s) = withReturned trace bsi (f s) := by intros; rfl) :
    SameButReturned (f s) (f s') := by
  obtain ⟨trace, bsi, rfl, htrace, hbsi⟩ := sameButReturned_iff.mp h
  have kept : f s = withReturned s.trace s.xcvr.bsi (f s) := hf s.trace s.xcvr.bsi
  refine sameButReturned_iff.mpr ⟨trace, bsi, hf trace bsi, ?_, ?_⟩ <;> rw [kept]
  · exact htrace
  · exact hbsi

/-- Both states take the same branch of a condition on what they share. -/
theorem SameButReturned.ite (c : State → Prop) [DecidablePred c] {a b a' b' : State} (ha : SameButReturned a a')
    (hb : SameButReturned b b') (hc : ∀ trace bsi, c (withReturned trace bsi s) = c s := by intros; rfl) :
    SameButReturned (if c s then a else b) (if c s' then a' else b') := by
  simp only [h.read c hc]
  split
  · exact ha
  · exact hb

/-! ### The ports -/

theorem emit_same (es : List Event) : SameButReturned (emit es s) (emit es s') := by
  obtain ⟨trace, bsi, rfl, htrace, hbsi⟩ := sameButReturned_iff.mp h
  exact sameButReturned_iff.mpr ⟨trace ++ es, bsi, rfl, by simp [htrace], hbsi⟩

/-- `X.bsi` takes a listed value in both states or in neither; but for the value it is the same event (rule R226). -/
theorem xBsi_same (id : BitVec 6) : SameButReturned (xBsi id s) (xBsi id s') := by
  obtain ⟨trace, bsi, rfl, htrace, hbsi⟩ := sameButReturned_iff.mp h
  cases hs : s.xcvr.bsi with
  | nil =>
    obtain rfl : bsi = [] := List.eq_nil_of_length_eq_zero (by simpa [hs] using hbsi.symm)
    rw [xBsi_of_unlisted hs, xBsi_of_unlisted (s := withReturned trace [] s) rfl]
    exact ⟨rfl, by simp [withReturned, htrace, Event.forget], rfl⟩
  | cons b rest =>
    obtain ⟨c, rest', rfl⟩ := List.exists_cons_of_length_eq_add_one (hbsi.symm.trans (congrArg List.length hs))
    rw [xBsi_of_listed hs, xBsi_of_listed (s := withReturned trace (c :: rest') s) rfl]
    exact ⟨rfl, by simp [withReturned, htrace, Event.forget], by simpa [hs, withReturned] using hbsi⟩

/-- `X.rx` answers the same in both states. -/
theorem rxAnswer_same (n : Nat) : rxAnswer n s' = rxAnswer n s := h.read (rxAnswer n)

theorem xRx_same (n : Nat) (tmo : Word) : SameButReturned (xRx n tmo s) (xRx n tmo s') := by
  have ht : SameButReturned (emit [.rx n tmo (rxAnswer n s)] s) (emit [.rx n tmo (rxAnswer n s)] s') := emit_same h _
  simp only [xRx, rxAnswer_same h, h.read (fun u => u.xcvr.rx)]
  cases s.xcvr.rx with
  | nil => exact ht.map fun u => { u with xcvr := { u.xcvr with rx := [], draws := u.xcvr.draws + 1 } }
  | cons a rest => exact ht.map fun u => { u with xcvr := { u.xcvr with rx := rest } }

/-! ### The bus procedures -/

theorem header_same (id : BitVec 6) : SameButReturned (header id s) (header id s') :=
  (xBsi_same (emit_same h _) id).map fun u => { u with rpid := computePid id }

theorem send_same (id : BitVec 6) (data : List Byte) (k : Cksum) :
    SameButReturned (send id data k s) (send id data k s') := by
  unfold send
  rw [h.read fun u => u.csr.ifg]
  exact emit_same (emit_same (header_same h id) _) _

theorem recvParsed_same (id : BitVec 6) (p : Policy) : recvParsed id p s' = recvParsed id p s := by
  unfold recvParsed
  rw [rxAnswer_same (header_same h id)]

theorem recvState_same (id : BitVec 6) (tmo : Word) : SameButReturned (recvState id tmo s) (recvState id tmo s') :=
  xRx_same (header_same h id) _ _

/-! ### The commands -/

theorem finishWith_same (k : FKind) : SameButReturned (finishWith k s) (finishWith k s') := by
  cases k with
  | none => exact h.map finishOk
  | _ => exact h.map (finishFail _)

theorem deliver_same (r : Parsed) : SameButReturned (deliver r s) (deliver r s') :=
  finishWith_same (h.map fun u => setCheck r.cls.matched r.cls (setResult r.data u)) r.kind

theorem decodeFrame_same (id : BitVec 6) (p : Policy) (bytes : List Byte) :
    SameButReturned (decodeFrame id p bytes s) (decodeFrame id p bytes s') :=
  finishWith_same (h.map fun u => setCheck _ _ { setResult bytes.dropLast u with rpid := computePid id }) _

theorem scanCapture_same (id : BitVec 6) (p : Policy) (bytes : List Byte) :
    SameButReturned (scanCapture id p bytes s) (scanCapture id p bytes s') :=
  deliver_same (h.map fun u => { u with rpid := computePid id }) _

theorem pollSlave_same (id : BitVec 6) (p : Policy) : SameButReturned (pollSlave id p s) (pollSlave id p s') := by
  unfold pollSlave
  rw [recvParsed_same h, h.read fun u => u.csr.appTmo]
  exact deliver_same (recvState_same h id _) _

theorem sendRequest_same (body : List Byte) : SameButReturned (sendRequest body s) (sendRequest body s') := by
  unfold sendRequest
  rw [h.read fun u => u.csr.nad]
  have ht := h.map fun u => { setResult [] (setTState .idle u) with att := 0 }
  exact (send_same ht _ _ _).map (setTState .awaitingResponse)

/-- A body on the operands runs in both states or faults in both. -/
theorem withOperands_same (n : Nat) {f f' : List Byte → State} (hf : ∀ data, SameButReturned (f data) (f' data)) :
    SameOutcome (withOperands n s f) (withOperands n s' f') := by
  unfold withOperands
  rw [h.read (operands n)]
  cases operands n s with
  | some data => exact .next (hf data)
  | none => exact .fault _

theorem exec_command_same {i : Instr} (hf : isFrame i = false) : SameOutcome (exec i s) (exec i s') := by
  cases i with
  | pid id => exact .next (h.map fun u => finishOk { u with rbyte := computePid id, rpid := computePid id })
  | cksc => exact withOperands_same h _ fun data => h.map fun u => finishOk { u with rbyte := checksum data 0 }
  | ckse id =>
    exact withOperands_same h _ fun data => h.map fun u =>
      finishOk { u with rbyte := checksum data (computePid id), rpid := computePid id }
  | fencC id => exact withOperands_same h _ fun data => h.map (encodeFrame id .classic data)
  | fencE id => exact withOperands_same h _ fun data => h.map (encodeFrame id .enhanced data)
  | fdecC | fdecE | fdecCE => exact withOperands_same h _ fun _ => decodeFrame_same h _ _ _
  | scanC | scanE | scanCE => exact withOperands_same h _ fun _ => scanCapture_same h _ _ _
  | hdr => exact .next ((header_same h _).map finishOk)
  | sendC | sendE => exact withOperands_same h _ fun _ => (send_same h _ _ _).map finishOk
  | recvC | recvE | recvCE => exact .next (pollSlave_same h _ _)
  | dreq => exact withOperands_same h _ fun _ => sendRequest_same h _
  | cfg r =>
    exact withOperands_same h _ fun data => h.ite (fun _ => csrLegal r (cfgValue data) = true)
      (h.map fun u => finishOk { u with csr := csrWrite r (cfgValue data) u.csr }) (h.map refuse)
  | rst => exact .next (h.map resetBlock)
  | _ => cases hf

/-! ### The received frames -/

theorem completionTest_same : SameButReturned (completionTest s) (completionTest s') :=
  h.ite (fun u => u.tlen.toNat ≤ u.coll.length) (h.map completeExchange) h

theorem unusablePoll_same : SameButReturned (unusablePoll s) (unusablePoll s') :=
  h.ite (fun u => u.retry.toNat + 1 > u.csr.maxRetries.toNat)
    (h.map fun u => finishFail .retryExhausted (setTState .failed (setResult (u.coll.take u.tlen.toNat)
      { u with retry := BitVec.ofNat 5 (u.retry.toNat + 1) })))
    (h.map fun u => { u with retry := BitVec.ofNat 5 (u.retry.toNat + 1) })

theorem flowControl_same : SameButReturned (flowControl s) (flowControl s') := by
  unfold flowControl
  refine h.ite (fun u => u.csr.profile = 0) ?_ h
  rw [h.read State.csr]
  exact send_same h _ _ _

theorem acceptSingle_same (n : BitVec 4) (data : List Byte) :
    SameButReturned (acceptSingle n data s) (acceptSingle n data s') :=
  h.ite (fun _ => n.toNat > data.length) (h.map (failExchange .protocol))
    (h.map fun u => finishOk (setTState .done (setResult (data.take n.toNat) u)))

theorem acceptFirst_same (hi : BitVec 4) (data : List Byte) :
    SameButReturned (acceptFirst hi data s) (acceptFirst hi data s') := by
  cases data with
  | nil => exact h.map (failExchange .protocol)
  | cons lo seed =>
    have ht := h.map fun u => setTState .reassembling { u with tlen := hi ++ lo, coll := seed.take 5, retry := 0 }
    exact completionTest_same (flowControl_same ht)

theorem acceptConsecutive_same (data : List Byte) :
    SameButReturned (acceptConsecutive data s) (acceptConsecutive data s') := by
  cases data with
  | nil => exact unusablePoll_same h
  | cons b rest =>
    exact completionTest_same (h.map fun u => { u with coll := u.coll ++ (b :: rest).take 6, retry := 0 })

/-- A frame is a first response in both states or part of a reassembly in both (rule R87). -/
theorem exec_frame_same (ty v : BitVec 4) (data : List Byte) :
    SameOutcome (exec (frameOfType ty v data) s) (exec (frameOfType ty v data) s') := by
  have fails := h.map (failExchange .protocol)
  have unusable := unusablePoll_same h
  simp only [exec_frameOfType, rejectFrame]
  refine .next (h.ite (fun _ => ty = 0) ?_ (h.ite (fun _ => ty = 1) ?_ (h.ite (fun _ => ty = 2) ?_ ?_)))
  · exact h.ite (fun u => inReassembly u = true) unusable (acceptSingle_same h v data)
  · exact h.ite (fun u => inReassembly u = true) unusable (acceptFirst_same h v data)
  · exact h.ite (fun u => inReassembly u = true) (acceptConsecutive_same h data) fails
  · exact h.ite (fun u => inReassembly u = true) unusable fails

theorem exec_same (i : Instr) : SameOutcome (exec i s) (exec i s') := by
  cases hf : isFrame i with
  | false => exact exec_command_same h hf
  | true =>
    obtain ⟨ty, v, data, rfl⟩ := frameOfType_of_isFrame hf
    exact exec_frame_same h ty v data

/-! ### The step -/

theorem afterResponsePoll_same : SameButReturned (afterResponsePoll s) (afterResponsePoll s') := by
  unfold afterResponsePoll
  rw [recvParsed_same h, h.read State.csr, h.read State.att]
  exact (recvState_same h _ _).map fun u => { setCheck _ _ u with att := _ }

theorem afterCfPoll_same : SameButReturned (afterCfPoll s) (afterCfPoll s') := by
  unfold afterCfPoll
  rw [recvParsed_same h, h.read State.csr]
  exact (recvState_same h _ _).map (setCheck _ _)

/-- A poll reads the same answer in both states, and what it does is decided by that answer. -/
theorem pollResponse_same : SameOutcome (runFetched (pollResponse s)) (runFetched (pollResponse s')) := by
  have ht := afterResponsePoll_same h
  simp only [pollResponse, recvParsed_same h, h.read State.csr, h.read State.att]
  split
  · split
    · split
      · exact exec_same ht _
      · exact .next (ht.map (failExchange .protocol))
    · exact .next (ht.map (failExchange .protocol))
  · exact .next (ht.ite (fun _ => s.att.toNat + 1 < s.csr.respPolls.toNat) ht (ht.map (failExchange _)))

theorem pollConsecutive_same : SameOutcome (runFetched (pollConsecutive s)) (runFetched (pollConsecutive s')) := by
  have ht := afterCfPoll_same h
  simp only [pollConsecutive, recvParsed_same h, h.read State.csr]
  split
  · split
    · split
      · exact exec_same ht _
      · exact .next (unusablePoll_same ht)
    · exact .next (unusablePoll_same ht)
  · exact .next (unusablePoll_same ht)

theorem fetchBody_same (i : Instr) : SameOutcome (runFetched (fetchBody i s)) (runFetched (fetchBody i s')) := by
  unfold fetchBody
  rw [h.read fun u => u.status.tstate]
  split
  · exact pollResponse_same h
  · exact pollConsecutive_same h
  · exact exec_same h _

theorem fetchBlock_same : SameOutcome (runFetched (fetchBlock s)) (runFetched (fetchBlock s')) := by
  unfold fetchBlock
  rw [h.read fun u => u.status.busy, h.read State.cur]
  split
  · cases decodeCommand s.cur with
    | ok i => exact fetchBody_same h i
    | error e => exact .next (h.map refuse)
  · exact .next h

theorem dispatch_same (w : Word) : SameOutcome (dispatch w s) (dispatch w s') := by
  unfold dispatch
  cases decodeCommand w with
  | error e => exact .next (h.map fun u => refuse (startCommand w u))
  | ok i => exact withOperands_same h _ fun _ => h.map (startCommand w)

theorem commandArrives_same (w : Word) :
    SameOutcome (runFetched (commandArrives w s)) (runFetched (commandArrives w s')) := by
  unfold commandArrives
  rw [h.read fun u => u.status.busy]
  split
  · exact .next (h.map resetBlock)
  · simp only [runFetched]
    split
    · exact .next (h.map setOverrun)
    · exact dispatch_same h w

theorem hostWrite_same (i : BitVec 4) (b : Byte) : SameButReturned (hostWrite i b s) (hostWrite i b s') :=
  h.ite (fun u => u.status.busy = true) h (h.map fun u => { u with dbuf := u.dbuf.write i.toNat b })

/-- The host's next action is the same in both states. -/
theorem step_same : SameOutcome (step s) (step s') := by
  have next (rest : List HostAction) := h.map fun u => { u with host := rest }
  rw [step_eq, step_eq]
  unfold fetch
  rw [h.read State.host]
  cases s.host with
  | nil => exact fetchBlock_same h
  | cons a rest =>
    cases a with
    | run => exact fetchBlock_same (next rest)
    | write i b => exact .next (hostWrite_same (next rest) i b)
    | issue w => exact commandArrives_same (next rest) w

end

/-- Settles O51: the two steps have the same outcome but for the values returned. -/
theorem returnedPidIsIgnored : Obligations.ReturnedPidIsIgnored := by
  intro s s' h
  have hsame := step_same h
  refine ⟨fun t ht => ?_, fun f hf => ?_⟩
  · rw [ht] at hsame; exact hsame.of_next
  · rw [hf] at hsame; exact hsame.of_fault

end Sys2Proof.Machine
end

section
/-! The failure codes each command can end with (rules R210, R212, R214). -/

namespace Sys2Proof.Machine

/-! ### Each operation's outcome -/

/-- The block ends with FAIL 0, or with a code of the list. -/
def FailsOnlyWith (codes : List FKind) (t : State) : Prop := t.status.fail = true → t.status.fkind ∈ codes

/-- The codes of a capture that gives no payload (rules R112, R213). -/
def captureCodes : List FKind := [.timeout, .noPid, .short, .protocol, .checksum]

theorem failsOnlyWith_of_fail_false {codes : List FKind} {t : State} (h : t.status.fail = false) :
    FailsOnlyWith codes t := fun hf => absurd hf (by simp [h])

theorem finishWith_failsOnlyWith {codes : List FKind} {k : FKind} (h : k ≠ .none → k ∈ codes) (s : State) :
    FailsOnlyWith codes (finishWith k s) := by
  intro hf
  rw [finishWith_status] at hf ⊢
  exact h (by simpa using hf)

theorem outcome_mem {cls : RClass} (h : cls.outcome ≠ .none) : cls.outcome ∈ [FKind.checksum] := by
  cases cls with
  | none => exact List.mem_singleton.mpr rfl
  | classic | enhanced => exact absurd rfl h

theorem parse_kind_mem {pid : Byte} {bytes : List Byte} {p : Policy} (h : (parse pid bytes p).kind ≠ .none) :
    (parse pid bytes p).kind ∈ captureCodes := by
  rcases parse_cases pid bytes p with ⟨-, -, hk⟩ | ⟨hk, -⟩
  · exact List.mem_append_left [.checksum] hk
  · rw [hk] at h ⊢
    exact List.mem_append_right [.timeout, .noPid, .short, .protocol] (outcome_mem h)

theorem deliver_failsOnlyWith (pid : Byte) (bytes : List Byte) (p : Policy) (s : State) :
    FailsOnlyWith captureCodes (deliver (parse pid bytes p) s) := finishWith_failsOnlyWith parse_kind_mem _

theorem decodeFrame_failsOnlyWith (id : BitVec 6) (p : Policy) (bytes : List Byte) (s : State) :
    FailsOnlyWith [.checksum] (decodeFrame id p bytes s) := finishWith_failsOnlyWith outcome_mem _

theorem completionTest_failsOnlyWith {codes : List FKind} {s : State} (h : s.status.fail = false) :
    FailsOnlyWith codes (completionTest s) := by
  rcases completionTest_cases s with ⟨-, e⟩ | ⟨-, e⟩ <;> rw [e]
  · exact failsOnlyWith_of_fail_false rfl
  · exact failsOnlyWith_of_fail_false h

theorem unusablePoll_failsOnlyWith {s : State} (h : s.status.fail = false) :
    FailsOnlyWith [.retryExhausted] (unusablePoll s) := by
  rcases unusablePoll_cases s with ⟨-, e⟩ | ⟨-, e⟩ <;> rw [e]
  · exact failsOnlyWith_of_fail_false h
  · exact fun _ => List.mem_singleton.mpr rfl

/-! ### The rows of rule R212 -/

section
variable {i : Instr} {s t : State} (h : exec i s = .next t)
include h

theorem exec_always_succeeds (hi : (∃ id, i = .pid id) ∨ (∃ len, i = .cksc len) ∨ (∃ id len, i = .ckse id len) ∨
    (∃ id len, i = .fencC id len) ∨ (∃ id len, i = .fencE id len) ∨ (∃ id, i = .hdr id) ∨
    (∃ id len, i = .sendC id len) ∨ ∃ id len, i = .sendE id len) :
    t.status.done = true ∧ t.status.fail = false := by
  have ends {n : Nat} {f : List Byte → State} (hw : withOperands n s (fun data => finishOk (f data)) = .next t) :
      t.status.done = true ∧ t.status.fail = false := by
    obtain ⟨data, -, rfl⟩ := withOperands_next hw
    exact ⟨rfl, rfl⟩
  rcases hi with ⟨id, rfl⟩ | ⟨len, rfl⟩ | ⟨id, len, rfl⟩ | ⟨id, len, rfl⟩ | ⟨id, len, rfl⟩ | ⟨id, rfl⟩ |
    ⟨id, len, rfl⟩ | ⟨id, len, rfl⟩
  · cases h; exact ⟨rfl, rfl⟩
  · exact ends h
  · exact ends h
  · exact ends h
  · exact ends h
  · cases h; exact ⟨rfl, rfl⟩
  · exact ends h
  · exact ends h

theorem exec_fdec_failsOnlyWith
    (hi : (∃ id len, i = .fdecC id len) ∨ (∃ id len, i = .fdecE id len) ∨ ∃ id len, i = .fdecCE id len) :
    FailsOnlyWith [.checksum] t := by
  obtain ⟨p, id, len, rfl⟩ : ∃ p id len, i = fdecOf p id len := by
    rcases hi with ⟨id, len, rfl⟩ | ⟨id, len, rfl⟩ | ⟨id, len, rfl⟩
    · exact ⟨.classic, id, len, rfl⟩
    · exact ⟨.enhanced, id, len, rfl⟩
    · exact ⟨.classicThenEnhanced, id, len, rfl⟩
  rw [exec_fdecOf] at h
  obtain ⟨bytes, -, rfl⟩ := withOperands_next h
  exact decodeFrame_failsOnlyWith id p bytes s

theorem exec_capture_failsOnlyWith (hi : (∃ id len, i = .scanC id len) ∨ (∃ id len, i = .scanE id len) ∨
    (∃ id len, i = .scanCE id len) ∨ (∃ id, i = .recvC id) ∨ (∃ id, i = .recvE id) ∨ ∃ id, i = .recvCE id) :
    FailsOnlyWith captureCodes t := by
  have scanned {n : Nat} {id : BitVec 6} {p : Policy}
      (hw : withOperands n s (fun bytes => scanCapture id p bytes s) = .next t) : FailsOnlyWith captureCodes t := by
    obtain ⟨bytes, -, rfl⟩ := withOperands_next hw
    exact deliver_failsOnlyWith _ _ _ _
  rcases hi with ⟨id, len, rfl⟩ | ⟨id, len, rfl⟩ | ⟨id, len, rfl⟩ | ⟨id, rfl⟩ | ⟨id, rfl⟩ | ⟨id, rfl⟩
  · exact scanned h
  · exact scanned h
  · exact scanned h
  · cases h; exact deliver_failsOnlyWith _ _ _ _
  · cases h; exact deliver_failsOnlyWith _ _ _ _
  · cases h; exact deliver_failsOnlyWith _ _ _ _

end

/-- CFG fails only when it is refused (rule R193). -/
theorem exec_cfg_failsOnlyWith {r : Csr} {s t : State} (h : exec (.cfg r) s = .next t) :
    FailsOnlyWith [.refused] t := by
  rcases exec_cfg_next h with ⟨c, rfl⟩ | rfl
  · exact failsOnlyWith_of_fail_false rfl
  · exact fun _ => List.mem_singleton.mpr rfl

theorem exec_dreq_status {len : BitVec 4} {s t : State} (h : exec (.dreq len) s = .next t) :
    t.status.busy = s.status.busy ∧ t.status.fail = s.status.fail ∧ t.status.fkind = s.status.fkind := by
  obtain ⟨body, -, rfl⟩ := withOperands_next h
  simp [sendRequest]

/-! ### DREQ's polls -/

/-- An initial-response poll fails as its capture did, or with PROTOCOL (rules R156 to R160). -/
theorem pollResponse_failsOnlyWith {s t : State} (hs : s.status.tstate = .awaitingResponse)
    (hf : s.status.fail = false) (h : runFetched (pollResponse s) = .next t) : FailsOnlyWith captureCodes t := by
  have running : (afterResponsePoll s).status.fail = false := by simpa using hf
  have awaiting : (afterResponsePoll s).status.tstate = .awaitingResponse := by simpa using hs
  have fails {k : FKind} (hk : k ∈ captureCodes) :
      FailsOnlyWith captureCodes (failExchange k (afterResponsePoll s)) := fun _ => hk
  rcases pollResponse_cases s with ⟨hk, hp⟩ | ⟨-, -, hp⟩ | ⟨ty, v, data, -, -, -, hp⟩ <;> rw [hp] at h
  · cases h
    split
    · exact failsOnlyWith_of_fail_false running
    · exact fails (parse_kind_mem hk)
  · cases h; exact fails (by decide)
  · rcases exec_frame_first ty v data awaiting with e | ⟨-, e⟩ | ⟨lo, seed, -, e⟩ <;> cases e.symm.trans h
    · exact fails (by decide)
    · exact failsOnlyWith_of_fail_false rfl
    · exact completionTest_failsOnlyWith (by simpa using hf)

/-- A Consecutive-Frame poll fails only by using up the retries (rules R168, R214). -/
theorem pollConsecutive_failsOnlyWith {s t : State} (hs : s.status.tstate = .reassembling)
    (hf : s.status.fail = false) (h : runFetched (pollConsecutive s) = .next t) :
    FailsOnlyWith [.retryExhausted] t := by
  have running : (afterCfPoll s).status.fail = false := by simpa using hf
  have reassembling : (afterCfPoll s).status.tstate = .reassembling := by simpa using hs
  rcases pollConsecutive_cases s with ⟨-, hp⟩ | ⟨ty, v, data, -, -, -, hp⟩ <;> rw [hp] at h
  · cases h; exact unusablePoll_failsOnlyWith running
  · rcases exec_frame_reassembling ty v data reassembling with e | ⟨-, -, e⟩ <;> cases e.symm.trans h
    · exact unusablePoll_failsOnlyWith running
    · exact completionTest_failsOnlyWith running

/-- Settles O49: each row of rule R212 is its operation's outcome. -/
theorem failureCodesOfEachCommand : Obligations.FailureCodesOfEachCommand := by
  refine ⟨fun i s t h => ⟨exec_always_succeeds h, fun hi hf => ?_, exec_capture_failsOnlyWith h, ?_, ?_, ?_⟩,
    fun ts rest s t hex hf hstep hfail => ⟨?_, ?_⟩⟩
  · exact List.mem_singleton.mp (exec_fdec_failsOnlyWith h hi hf)
  · rintro ⟨r, rfl⟩ hf
    exact List.mem_singleton.mp (exec_cfg_failsOnlyWith h hf)
  · rintro rfl
    cases h; exact ⟨rfl, rfl⟩
  · rintro ⟨len, rfl⟩
    exact exec_dreq_status h
  · rintro rfl
    rw [step_of_awaiting hex] at hstep
    exact pollResponse_failsOnlyWith (s := { s with host := rest }) hex.tstate hf hstep hfail
  · rintro rfl
    rw [step_of_reassembling hex] at hstep
    exact List.mem_singleton.mp
      (pollConsecutive_failsOnlyWith (s := { s with host := rest }) hex.tstate hf hstep hfail)

end Sys2Proof.Machine
end

section
/-! The state after reset (rules R194, R240 to R242). -/

namespace Sys2Proof.Machine

/-- Settles O43: the state after reset is what `reset()` makes of it, and `reset()` leaves every block sound. -/
theorem resetStateIsSound : Obligations.ResetStateIsSound := resetBlock_blockInv State.reset

/-- The host reads `STATUS` as 0 after reset (rules R24, R240). -/
@[simp] theorem Status.reset_word : Status.reset.word = 0 := by decide

/-- The reset word is run at once, whether or not the block is busy (rules R191, R194). -/
theorem step_of_resetWord {s : State} {rest : List HostAction} (hh : s.host = .issue 0xC000 :: rest) :
    step s = .next (resetBlock { s with host := rest }) := by
  rw [step_of_issue hh, commandArrives_resetWord]
  rfl

/-- Settles O40: the step answers `resetBlock`, whose fields are the reset values; that `MAX_RETRIES` lies in its
range is part of the invariant after reset. -/
theorem resetCommandResets : Obligations.ResetCommandResets := by
  intro s rest hh
  obtain ⟨above, below⟩ := (resetBlock_blockInv { s with host := rest }).max_retries
  exact ⟨resetBlock { s with host := rest }, step_of_resetWord hh, rfl, Status.reset_word, rfl, rfl, rfl, rfl, rfl,
    fun k => Memory.read_nil k, fun k => Memory.read_nil k, rfl, above, below, rfl, rfl, rfl, rfl, rfl, rfl, rfl⟩

end Sys2Proof.Machine
end

section
/-! Decoding and encoding invert each other (rules R71 to R76, R82, R92). -/

namespace Sys2Proof

/-- Settles O1: constructor by constructor, `decode_encode`. -/
theorem decodeInvertsEncode : Obligations.DecodeInvertsEncode := decode_encode

/-! ### Whatever decodes re-encodes to itself -/

/-- Opcode by opcode, the fields the decoder lets through are the ones the encoder writes, and the `LEN` check is
the one of `Instr.wellFormed`. -/
theorem encode_of_decodeCommand_packWord {op : BitVec 4} {id : BitVec 6} {kind : BitVec 2} {len : BitVec 4} {i : Instr}
    (h : decodeCommand (packWord op id kind len) = .ok i) :
    i.wellFormed = true ∧ encode i = .command (packWord op id kind len) := by
  by_cases hcfg : op = 0xB
  · subst hcfg
    obtain ⟨⟨r, hr, rfl⟩, rfl, rfl⟩ := decodeCommand_cfg_iff.mp h
    exact ⟨rfl, by rw [encode, csrOfIndex_eq_some hr]⟩
  · simp only [decodeCommand, fieldOp_packWord, fieldId_packWord, fieldKind_packWord, fieldLen_packWord] at h
    rcases opcode_cases_of_ne_cfg hcfg with rfl | rfl | rfl | rfl | rfl | rfl | rfl | rfl | rfl | rfl | rfl | rfl |
      rfl | rfl | rfl
    -- the reserved opcodes decode to nothing (rule R77)
    all_goals simp only [BitVec.reduceToNat, noId_eq_ok, noKind_eq_ok, lenIn_eq_ok, txKind_eq_ok, rxKind_eq_ok,
      Except.ok.injEq, reduceCtorEq, Nat.zero_le, true_and, Nat.le_zero, BitVec.toNat_eq_nat, Nat.two_pow_pos] at h
    · -- PID
      obtain ⟨rfl, rfl, rfl⟩ := h; exact ⟨rfl, rfl⟩
    · -- CKSC
      obtain ⟨rfl, rfl, hl, rfl⟩ := h; exact ⟨decide_eq_true hl, rfl⟩
    · -- CKSE
      obtain ⟨rfl, hl, rfl⟩ := h; exact ⟨decide_eq_true hl, rfl⟩
    · -- FENC
      rcases h with ⟨rfl, hl, rfl⟩ | ⟨rfl, hl, rfl⟩ <;> exact ⟨decide_eq_true hl, rfl⟩
    · -- FDEC
      rcases h with ⟨rfl, hl, rfl⟩ | ⟨rfl, hl, rfl⟩ | ⟨rfl, hl, rfl⟩ <;>
        exact ⟨by simpa [Instr.wellFormed] using hl, rfl⟩
    · -- SCAN
      rcases h with ⟨rfl, hl, rfl⟩ | ⟨rfl, hl, rfl⟩ | ⟨rfl, hl, rfl⟩ <;> exact ⟨decide_eq_true hl, rfl⟩
    · -- HDR
      obtain ⟨rfl, rfl, rfl⟩ := h; exact ⟨rfl, rfl⟩
    · -- SEND
      rcases h with ⟨rfl, hl, rfl⟩ | ⟨rfl, hl, rfl⟩ <;> exact ⟨decide_eq_true hl, rfl⟩
    · -- RECV
      rcases h with ⟨rfl, rfl, rfl⟩ | ⟨rfl, rfl, rfl⟩ | ⟨rfl, rfl, rfl⟩ <;> exact ⟨rfl, rfl⟩
    · -- DREQ
      obtain ⟨rfl, rfl, hl, rfl⟩ := h; exact ⟨by simpa [Instr.wellFormed] using hl, rfl⟩
    · -- RST
      obtain ⟨rfl, rfl, rfl, rfl⟩ := h; exact ⟨rfl, rfl⟩

/-- The encoder writes a frame's type and value back (rule R82). -/
theorem encode_frameOfType (t v : BitVec 4) (data : List Byte) :
    encode (frameOfType t v data) = .response (pciByte t v :: data) := by
  fin_cases t <;> rfl

/-- A frame is well-formed when its data fit, whatever its type (rules R89, R112). -/
theorem wellFormed_frameOfType (t v : BitVec 4) (data : List Byte) :
    (frameOfType t v data).wellFormed = decide (data.length ≤ frameDataMax) := by
  unfold frameOfType
  split <;> rfl

/-- Settles O2: a word is its fields, and a frame its type, value and data. -/
theorem encodeInvertsDecode : Obligations.EncodeInvertsDecode := by
  intro c i h
  cases c with
  | command w =>
    rw [← packWord_fields w] at h ⊢
    exact encode_of_decodeCommand_packWord h
  | response bytes =>
    obtain ⟨t, v, data, rfl, hlen, rfl⟩ := decodeResponse_eq_ok h
    exact ⟨(wellFormed_frameOfType t v data).trans (decide_eq_true hlen), encode_frameOfType t v data⟩

/-! ### Encodings written out -/

/-- Settles O5: each written-out encoding is what the encoder writes for its instruction, which decodes. -/
theorem writtenOutWordsDecode : Obligations.WrittenOutWordsDecode :=
  ⟨decode_encode (.cksc 3) rfl, decode_encode (.fencE 0x10 2) rfl, decode_encode (.scanCE 0x10 5) rfl,
    decode_encode (.cfg .ifg) rfl, decode_encode (.sf 3 [0x61, 0x01, 0xAB]) rfl, decode_encode (.ff 0 [0x0A]) rfl,
    decode_encode (.pciRsvB 7 []) rfl⟩

end Sys2Proof
end
